-- ==== Sys2Proof/Word.lean ====
section
/-! DEFINITION. The data types of the block: words, rows, bit matrices and the generator state (`00_scope.md` R8, R12, R13). -/

namespace Sys2Proof

/-- One word of the generator, of a register and of the bus: W = 32 bits (R8, R10). -/
abbrev Word := BitVec 32

/-- One 128-bit row vector (R13). Position `p` is `getMsbD p`: position 0 is the most significant bit (R12, R74). -/
abbrev Row := BitVec 128

/-- A square bit matrix: `n` rows of `n` columns; column `c` of a row is its position `c` (R13). -/
abbrev BitMat (n : Nat) := Vector (BitVec n) n

/-- The content of a matrix register: 128 rows and 128 columns (R13, R43). -/
abbrev Matrix := BitMat 128

/-- A 32x32 block of a matrix (R13). -/
abbrev Block := BitMat 32

/-- The generator state: four unsigned 32-bit words (R12, R35). -/
structure GenState where
  s0 : Word
  s1 : Word
  s2 : Word
  s3 : Word
  deriving DecidableEq, Repr

/-- One equation of the solver's working copy: the coefficient row and the right-hand-side bit (R44, R45, R220). -/
structure Equation where
  coef : Row
  rhs : Bool
  deriving DecidableEq, Repr

/-- The solver's private copy (A, b) of the rows and right-hand sides, in row order (R220, C1). -/
abbrev EqSystem := List Equation

end Sys2Proof
end

