-- ==== Sys2Proof/Syntax.lean ====
section
/-! DEFINITION. The commands of the block (`30_encoding.md` R102, R106, R110): one constructor per row of the opcode table. -/

namespace Sys2Proof

/-- A matrix register index as a command's 4-bit field holds it (R101, R104). -/
abbrev MatReg := Fin 16

/-- A block row or block column index of MBLK, 0..3 (R103). -/
abbrev BlockIdx := Fin 4

/-- The block MBLK places: KIND 0, 1 and 2 (R103, R110). The shift amount is the signed number the command word's K stands for;
WellFormed bounds it to the range of 8 bits. -/
inductive BlockKind where
  | zero
  | ident
  | shift (k : Int)
  deriving DecidableEq, Repr

/-- The field X of MBLK: `set` (X = 0) replaces the block, `xor` (X = 1) adds into it (R103, R110). -/
inductive BlockMode where
  | set
  | xor
  deriving DecidableEq, Repr

/-- The sixteen commands (R106). Operands stand in the order of the assembler syntax (R110): destination, then sources. -/
inductive Instr where
  /-- NOP (R130) -/
  | nop
  /-- STEPF (R132) -/
  | stepf
  /-- STEPB (R134) -/
  | stepb
  /-- STEPN (R136) -/
  | stepn
  /-- MZERO md (R164) -/
  | mzero (rd : MatReg)
  /-- MIDENT md (R165) -/
  | mident (rd : MatReg)
  /-- MTR md (R166) -/
  | mtr (rd : MatReg)
  /-- MBLK.set / MBLK.xor md, bi, bj, kind (R168) -/
  | mblk (mode : BlockMode) (rd : MatReg) (bi bj : BlockIdx) (kind : BlockKind)
  /-- MXOR md, ma, mb (R170) -/
  | mxor (rd ra rb : MatReg)
  /-- MMUL md, ma, mb (R172) -/
  | mmul (rd ra rb : MatReg)
  /-- MPOW md, ma (R174) -/
  | mpow (rd ra : MatReg)
  /-- MTRN md, ma (R176) -/
  | mtrn (rd ra : MatReg)
  /-- MEQ ma, mb (R178) -/
  | meq (ra rb : MatReg)
  /-- MAPPLY ma (R180) -/
  | mapply (ra : MatReg)
  /-- MROWS ma (R182) -/
  | mrows (ra : MatReg)
  /-- SOLVE (R220) -/
  | solve
  deriving DecidableEq, Repr

/-- The pseudo-instructions (R112). None has an encoding of its own. -/
inductive Pseudo where
  | mcopy (md ma : MatReg)
  | msqr (md ma : MatReg)
  | mclr (md : MatReg)
  | clrerr
  | mshift (md : MatReg) (bi bj : BlockIdx) (k : Int)
  | mixs (md : MatReg) (bi bj : BlockIdx) (k : Int)
  deriving DecidableEq, Repr

end Sys2Proof
end

