-- ==== Sys2Proof/WellFormed.lean ====
section
/-! DEFINITION. Which terms of Instr stand for a command word: the shift amount of MBLK fits its 8-bit signed field
(`30_encoding.md` R103, R105). Every other operand's range is in its type. -/

namespace Sys2Proof

/-- The range of sext_8: −128..127 (R105, R110). -/
def BlockKind.wf : BlockKind → Bool
  | .zero => true
  | .ident => true
  | .shift k => decide (-128 ≤ k) && decide (k ≤ 127)

/-- The instruction has an encoding. -/
def Instr.wf : Instr → Bool
  | .nop => true
  | .stepf => true
  | .stepb => true
  | .stepn => true
  | .mzero _ => true
  | .mident _ => true
  | .mtr _ => true
  | .mblk _ _ _ _ kind => kind.wf
  | .mxor _ _ _ => true
  | .mmul _ _ _ => true
  | .mpow _ _ => true
  | .mtrn _ _ => true
  | .meq _ _ => true
  | .mapply _ => true
  | .mrows _ => true
  | .solve => true

end Sys2Proof
end

