-- ==== Sys2Proof/Decode.lean ====
section
/-! DEFINITION. The command word: opcode map, formats, decoder, encoder, assembler text and pseudo-instructions
(`30_encoding.md` R100–R112). -/

namespace Sys2Proof

/-- Why a word is no legal command: the four cases of R107. -/
inductive DecodeError where
  /-- (a) OP is none of the sixteen values of R106 -/
  | unassignedOpcode
  /-- (b) a reserved bit of the format is 1 -/
  | reservedBit
  /-- (c) MBLK with KIND = 3 -/
  | reservedKind
  /-- (d) MBLK with KIND ≠ 2 and K ≠ 0 -/
  | shiftAmountWithoutShift
  deriving DecidableEq, Repr

/-- The assigned opcodes (R106). -/
inductive Opcode where
  | nop | stepf | stepb | stepn | mzero | mident | mtr | mblk | mxor | mmul | mpow | mtrn | meq | mapply | mrows | solve
  deriving DecidableEq, Repr

/-- The formats (R102). -/
inductive Format where
  | f0 | fd | fda | fdab | fab | fa | fblk
  deriving DecidableEq, Repr

/-- OP, bits [31:24] (R106). -/
def Opcode.bits : Opcode → BitVec 8
  | .nop => 0x00
  | .stepf => 0x01
  | .stepb => 0x02
  | .stepn => 0x03
  | .mzero => 0x10
  | .mident => 0x11
  | .mtr => 0x12
  | .mblk => 0x13
  | .mxor => 0x14
  | .mmul => 0x15
  | .mpow => 0x16
  | .mtrn => 0x17
  | .meq => 0x18
  | .mapply => 0x19
  | .mrows => 0x1A
  | .solve => 0x20

/-- The format of each command (R102, R106). -/
def Opcode.format : Opcode → Format
  | .nop => .f0
  | .stepf => .f0
  | .stepb => .f0
  | .stepn => .f0
  | .mzero => .fd
  | .mident => .fd
  | .mtr => .fd
  | .mblk => .fblk
  | .mxor => .fdab
  | .mmul => .fdab
  | .mpow => .fda
  | .mtrn => .fda
  | .meq => .fab
  | .mapply => .fa
  | .mrows => .fa
  | .solve => .f0

/-- The bits of [23:0] that must be 0 (R102). -/
def Format.reserved : Format → Word
  | .f0 => 0x00FFFFFF
  | .fd => 0x000FFFFF
  | .fda => 0x0000FFFF
  | .fdab => 0x00000FFF
  | .fab => 0x00F00FFF
  | .fa => 0x00F0FFFF
  | .fblk => 0x00001F00

/-- Every assigned opcode (R106). -/
def Opcode.all : List Opcode :=
  [.nop, .stepf, .stepb, .stepn, .mzero, .mident, .mtr, .mblk, .mxor, .mmul, .mpow, .mtrn, .meq, .mapply, .mrows, .solve]

/-- A decoder recognises a command by OP alone (R106). -/
def opcodeOf (b : BitVec 8) : Option Opcode :=
  Opcode.all.find? fun o => o.bits == b

/-! ### Fields (R101, R103) -/

/-- OP, [31:24]. -/
def opField (w : Word) : BitVec 8 := w.extractLsb' 24 8
/-- RD, [23:20]. -/
def rdField (w : Word) : BitVec 4 := w.extractLsb' 20 4
/-- RA, [19:16]. -/
def raField (w : Word) : BitVec 4 := w.extractLsb' 16 4
/-- RB, [15:12]. -/
def rbField (w : Word) : BitVec 4 := w.extractLsb' 12 4
/-- BI, [19:18]. -/
def biField (w : Word) : BitVec 2 := w.extractLsb' 18 2
/-- BJ, [17:16]. -/
def bjField (w : Word) : BitVec 2 := w.extractLsb' 16 2
/-- KIND, [15:14]. -/
def kindField (w : Word) : BitVec 2 := w.extractLsb' 14 2
/-- X, [13]. -/
def xField (w : Word) : BitVec 1 := w.extractLsb' 13 1
/-- K, [7:0]. -/
def kField (w : Word) : BitVec 8 := w.extractLsb' 0 8

/-- A 4-bit field as a register index (R104). -/
def regOfBits (b : BitVec 4) : MatReg := ⟨b.toNat, b.isLt⟩

/-- A 2-bit field as a block index (R105). -/
def idxOfBits (b : BitVec 2) : BlockIdx := ⟨b.toNat, b.isLt⟩

/-- X = 0 sets, X = 1 XORs (R103). -/
def modeOfBits (b : BitVec 1) : BlockMode := if b = 0 then .set else .xor

/-- KIND and K: the illegal combinations (c) and (d) of R107, and k = sext_8(K) (R105). -/
def kindOfBits (kind : BitVec 2) (k : BitVec 8) : Except DecodeError BlockKind :=
  if kind = 3 then .error .reservedKind
  else if kind = 2 then .ok (.shift k.toInt)
  else if k ≠ 0 then .error .shiftAmountWithoutShift
  else if kind = 1 then .ok .ident
  else .ok .zero

/-- The operands of a word whose reserved bits are 0. -/
def operandsOf (o : Opcode) (w : Word) : Except DecodeError Instr :=
  let rd := regOfBits (rdField w)
  let ra := regOfBits (raField w)
  let rb := regOfBits (rbField w)
  match o with
  | .nop => .ok .nop
  | .stepf => .ok .stepf
  | .stepb => .ok .stepb
  | .stepn => .ok .stepn
  | .mzero => .ok (.mzero rd)
  | .mident => .ok (.mident rd)
  | .mtr => .ok (.mtr rd)
  | .mblk =>
    match kindOfBits (kindField w) (kField w) with
    | .error e => .error e
    | .ok kind => .ok (.mblk (modeOfBits (xField w)) rd (idxOfBits (biField w)) (idxOfBits (bjField w)) kind)
  | .mxor => .ok (.mxor rd ra rb)
  | .mmul => .ok (.mmul rd ra rb)
  | .mpow => .ok (.mpow rd ra)
  | .mtrn => .ok (.mtrn rd ra)
  | .meq => .ok (.meq ra rb)
  | .mapply => .ok (.mapply ra)
  | .mrows => .ok (.mrows ra)
  | .solve => .ok .solve

/-- The decoder: total on every word, checks in the order of R252 (1 and 2). -/
def decode (w : Word) : Except DecodeError Instr :=
  match opcodeOf (opField w) with
  | none => .error .unassignedOpcode
  | some o => if w &&& o.format.reserved ≠ 0 then .error .reservedBit else operandsOf o w

/-! ### Encoder -/

/-- The common layout: OP, RD, RA, RB, IMM (R101). -/
def pack (op : BitVec 8) (rd ra rb : BitVec 4) (imm : BitVec 12) : Word :=
  (op ++ rd ++ ra ++ rb ++ imm : BitVec (8 + 4 + 4 + 4 + 12))

/-- The layout of MBLK: OP, RD, BI, BJ, KIND, X, reserved, K (R103). -/
def packBlk (op : BitVec 8) (rd : BitVec 4) (bi bj kind : BitVec 2) (x : BitVec 1) (k : BitVec 8) : Word :=
  (op ++ rd ++ bi ++ bj ++ kind ++ x ++ 0#5 ++ k : BitVec (8 + 4 + 2 + 2 + 2 + 1 + 5 + 8))

def regBits (r : MatReg) : BitVec 4 := BitVec.ofNat 4 r.val
def idxBits (i : BlockIdx) : BitVec 2 := BitVec.ofNat 2 i.val

def BlockMode.bits : BlockMode → BitVec 1
  | .set => 0
  | .xor => 1

/-- KIND (R103). -/
def BlockKind.bits : BlockKind → BitVec 2
  | .zero => 0
  | .ident => 1
  | .shift _ => 2

/-- K: two's complement of the shift amount, 0 for the other kinds (R103). -/
def BlockKind.kBits : BlockKind → BitVec 8
  | .zero => 0
  | .ident => 0
  | .shift k => BitVec.ofInt 8 k

/-- The command word of a well-formed instruction (R101–R106). -/
def encode : Instr → Word
  | .nop => pack Opcode.nop.bits 0 0 0 0
  | .stepf => pack Opcode.stepf.bits 0 0 0 0
  | .stepb => pack Opcode.stepb.bits 0 0 0 0
  | .stepn => pack Opcode.stepn.bits 0 0 0 0
  | .mzero rd => pack Opcode.mzero.bits (regBits rd) 0 0 0
  | .mident rd => pack Opcode.mident.bits (regBits rd) 0 0 0
  | .mtr rd => pack Opcode.mtr.bits (regBits rd) 0 0 0
  | .mblk mode rd bi bj kind => packBlk Opcode.mblk.bits (regBits rd) (idxBits bi) (idxBits bj) kind.bits mode.bits kind.kBits
  | .mxor rd ra rb => pack Opcode.mxor.bits (regBits rd) (regBits ra) (regBits rb) 0
  | .mmul rd ra rb => pack Opcode.mmul.bits (regBits rd) (regBits ra) (regBits rb) 0
  | .mpow rd ra => pack Opcode.mpow.bits (regBits rd) (regBits ra) 0 0
  | .mtrn rd ra => pack Opcode.mtrn.bits (regBits rd) (regBits ra) 0 0
  | .meq ra rb => pack Opcode.meq.bits 0 (regBits ra) (regBits rb) 0
  | .mapply ra => pack Opcode.mapply.bits 0 (regBits ra) 0 0
  | .mrows ra => pack Opcode.mrows.bits 0 (regBits ra) 0 0
  | .solve => pack Opcode.solve.bits 0 0 0 0

/-! ### The opcode table's numbering -/

/-- The command word whose low `nbits` bits are those of `w` and whose other bits are 0. The bus carries the word whole
(R71, R79), so there is no byte order to choose. -/
def tableWord (nbits w : Nat) : Word := BitVec.ofNat 32 (w % 2 ^ nbits)

/-- The instruction the decoder reads from the bits of a row of the opcode table. -/
def decodeTableWord (nbits w : Nat) : Option Instr :=
  match decode (tableWord nbits w) with
  | .ok i => some i
  | .error _ => none

/-! ### Pseudo-instructions and assembler text -/

/-- The commands a pseudo-instruction stands for (R112). -/
def Pseudo.expand : Pseudo → List Instr
  | .mcopy md ma => [.mtrn md ma, .mtrn md md]
  | .msqr md ma => [.mmul md ma ma]
  | .mclr md => [.mzero md]
  | .clrerr => [.nop]
  | .mshift md bi bj k => [.mblk .set md bi bj (.shift k)]
  | .mixs md bi bj k => [.mblk .set md bi bj .ident, .mblk .xor md bi bj (.shift k)]

/-- `m0` .. `m15` (R110). -/
def regText (r : MatReg) : String := "m" ++ toString r.val

def BlockKind.text : BlockKind → String
  | .zero => "zero"
  | .ident => "ident"
  | .shift k => "shift(" ++ toString k ++ ")"

def BlockMode.text : BlockMode → String
  | .set => ".set"
  | .xor => ".xor"

/-- The assembler syntax of a command (R110). -/
def Instr.text : Instr → String
  | .nop => "NOP"
  | .stepf => "STEPF"
  | .stepb => "STEPB"
  | .stepn => "STEPN"
  | .mzero rd => "MZERO " ++ regText rd
  | .mident rd => "MIDENT " ++ regText rd
  | .mtr rd => "MTR " ++ regText rd
  | .mblk mode rd bi bj kind =>
    "MBLK" ++ mode.text ++ " " ++ regText rd ++ ", " ++ toString bi.val ++ ", " ++ toString bj.val ++ ", " ++ kind.text
  | .mxor rd ra rb => "MXOR " ++ regText rd ++ ", " ++ regText ra ++ ", " ++ regText rb
  | .mmul rd ra rb => "MMUL " ++ regText rd ++ ", " ++ regText ra ++ ", " ++ regText rb
  | .mpow rd ra => "MPOW " ++ regText rd ++ ", " ++ regText ra
  | .mtrn rd ra => "MTRN " ++ regText rd ++ ", " ++ regText ra
  | .meq ra rb => "MEQ " ++ regText ra ++ ", " ++ regText rb
  | .mapply ra => "MAPPLY " ++ regText ra
  | .mrows ra => "MROWS " ++ regText ra
  | .solve => "SOLVE"

end Sys2Proof
end

