-- ==== Sys2Proof/Machine/Bits.lean ====
section
/-! DEFINITION. Bit-level helpers: XOR sums, vectors made from their positions, the four words of a row, and the 128-bit
vector of a generator state (`00_scope.md` R10–R14; `20_memory.md` R74). -/

namespace Sys2Proof

/-- XOR over k in 0..n-1 of the bits `f k` (R14). -/
def xorBits : Nat → (Nat → Bool) → Bool
  | 0, _ => false
  | n + 1, f => xorBits n f ^^ f n

/-- XOR over k in 0..n-1 of the vectors `f k`. -/
def xorVecs {m : Nat} : Nat → (Nat → BitVec m) → BitVec m
  | 0, _ => 0
  | n + 1, f => xorVecs n f ^^^ f n

/-- The vector whose position p is `f p`, position 0 most significant (R12, R13). -/
def bitsOf : (n : Nat) → (Nat → Bool) → BitVec n
  | 0, _ => 0
  | n + 1, f => (bitsOf n f).concat (f n)

/-- Word k of a row: columns 32·k .. 32·k+31 (R74). -/
def rowWord (row : Row) (k : Nat) : Word := row.extractLsb' (96 - 32 * k) 32

/-- The row of four words, word 0 most significant (R74). -/
def rowOfWords (f : Nat → Word) : Row := (f 0 ++ f 1 ++ f 2 ++ f 3 : BitVec (32 + 32 + 32 + 32))

/-- The row with its word k replaced (R74, R76). -/
def setRowWord (row : Row) (k : Nat) (w : Word) : Row := rowOfWords fun j => if j = k then w else rowWord row j

/-- Word k of a generator state. -/
def GenState.word (g : GenState) : Nat → Word
  | 0 => g.s0
  | 1 => g.s1
  | 2 => g.s2
  | _ => g.s3

/-- The state with word k replaced. -/
def GenState.setWord (g : GenState) (w : Word) : Nat → GenState
  | 0 => { g with s0 := w }
  | 1 => { g with s1 := w }
  | 2 => { g with s2 := w }
  | _ => { g with s3 := w }

/-- vec(s) = s0·2^96 + s1·2^64 + s2·2^32 + s3 (R12). -/
def GenState.vec (g : GenState) : Row := rowOfWords g.word

/-- unvec, the inverse of vec (R12). -/
def unvec (v : Row) : GenState := ⟨rowWord v 0, rowWord v 1, rowWord v 2, rowWord v 3⟩

/-- The two 64-bit values of the output contract: (s0<<32|s1) and (s2<<32|s3) (R37). -/
def GenState.pairs (g : GenState) : BitVec 64 × BitVec 64 := (g.s0 ++ g.s1, g.s2 ++ g.s3)

/-- The word-wise XOR of two states (R139). -/
def GenState.add (a b : GenState) : GenState := ⟨a.s0 ^^^ b.s0, a.s1 ^^^ b.s1, a.s2 ^^^ b.s2, a.s3 ^^^ b.s3⟩

end Sys2Proof
end

