-- ==== Sys2Proof/Machine/Gf2.lean ====
section
/-! DEFINITION. GF(2) bit matrices, the shifted identity and the one-step matrix Tr (`00_scope.md` R13, R14; `41_matrix.md`
R160, R163, R168). Written for any width, used at 128 (matrix registers) and 32 (blocks). -/

namespace Sys2Proof

/-- Row r; rows past the last read zero. -/
def BitMat.row {n : Nat} (A : BitMat n) (r : Nat) : BitVec n := A[r]?.getD 0

/-- The bit A[r][c] (R13). -/
def BitMat.bit {n : Nat} (A : BitMat n) (r c : Nat) : Bool := (A.row r).getMsbD c

/-- The matrix whose row r is `f r`. -/
def BitMat.ofRows {n : Nat} (f : Nat → BitVec n) : BitMat n := ⟨((List.range n).map f).toArray, by simp⟩

/-- The matrix whose bit [r][c] is `f r c`. -/
def BitMat.ofBits {n : Nat} (f : Nat → Nat → Bool) : BitMat n := BitMat.ofRows fun r => bitsOf n (f r)

/-- The zero matrix (R14). -/
def BitMat.zero {n : Nat} : BitMat n := BitMat.ofRows fun _ => 0

/-- The identity: I[r][c] = 1 iff r = c (R14). -/
def BitMat.ident {n : Nat} : BitMat n := BitMat.ofBits fun r c => decide (r = c)

/-- The matrix sum, bit by bit (R14). -/
def BitMat.add {n : Nat} (A B : BitMat n) : BitMat n := BitMat.ofRows fun r => A.row r ^^^ B.row r

/-- The matrix product (R14), a row at a time: row r of A·B is the XOR of the rows k of B with A[r][k] = 1. -/
def BitMat.mul {n : Nat} (A B : BitMat n) : BitMat n :=
  BitMat.ofRows fun r => xorVecs n fun k => if A.bit r k then B.row k else 0

/-- A^k by k sequential multiplications P = P · A from I (R14, R174). -/
def BitMat.pow {n : Nat} (A : BitMat n) : Nat → BitMat n
  | 0 => BitMat.ident
  | k + 1 => (A.pow k).mul A

/-- The transpose (R14). -/
def BitMat.transpose {n : Nat} (A : BitMat n) : BitMat n := BitMat.ofBits fun r c => A.bit c r

/-- The matrix applied to a column vector: position r is XOR over c of A[r][c] AND v[c] (R13). -/
def BitMat.mulVec {n : Nat} (A : BitMat n) (v : BitVec n) : BitVec n :=
  bitsOf n fun r => xorBits n fun c => A.bit r c && v.getMsbD c

/-- The shifted identity: ones at j = i + k (R163). -/
def shiftBlock (k : Int) : Block := BitMat.ofBits fun i j => decide ((j : Int) = (i : Int) + k)

/-- The block of each KIND (R168). -/
def BlockKind.block : BlockKind → Block
  | .zero => BitMat.zero
  | .ident => BitMat.ident
  | .shift k => shiftBlock k

/-- The matrix with block (bi, bj) replaced by P, or with P added into it (R168). -/
def placeBlock (mode : BlockMode) (bi bj : Nat) (P : Block) (A : Matrix) : Matrix :=
  BitMat.ofRows fun r =>
    if r / 32 = bi then
      setRowWord (A.row r) bj
        (match mode with
          | .set => P.row (r % 32)
          | .xor => rowWord (A.row r) bj ^^^ P.row (r % 32))
    else A.row r

/-- The 32x32 blocks of Tr, block row = new word, block column = old word (R160). -/
def trBlock : Nat → Nat → Block
  | 0, 1 => BitMat.ident
  | 1, 2 => BitMat.ident
  | 2, 3 => BitMat.ident
  | 3, 0 => (BitMat.add BitMat.ident (shiftBlock (-8))).mul (BitMat.add BitMat.ident (shiftBlock 11))
  | 3, 3 => BitMat.add BitMat.ident (shiftBlock (-19))
  | _, _ => BitMat.zero

/-- The one-step matrix Tr (R160). -/
def trMatrix : Matrix := BitMat.ofRows fun r => rowOfWords fun k => (trBlock (r / 32) k).row (r % 32)

end Sys2Proof
end

