-- ==== Sys2Proof/Config.lean ====
section
/-! DEFINITION. What this hardware fixes (`00_scope.md` R8) and the free values the spec leaves open (`93_implementation_defined.md` U1, U2, U3, U9, U13).
A free value is an opaque constant without a body, so no proof can lean on what it is. -/

namespace Sys2Proof.Config

/-- NMAT, the number of matrix registers (R8, U15; log 12). -/
abbrev nmat : Nat := 16

/-- MAX_ROWS, the number of equation rows (R8, U15; log 12). -/
abbrev maxRows : Nat := 256

/-- MAX_GAPS, the number of gap entries (R8, U15; log 12). -/
abbrev maxGaps : Nat := 64

/-- NOUTROWS, the rows MROWS records per gap (R8). -/
abbrev nOutRows : Nat := 4

/-- SHA, SHB and SHC, the shift constants of the generator (R2, R8, R9). -/
abbrev sha : Nat := 11
@[inherit_doc sha] abbrev shb : Nat := 8
@[inherit_doc sha] abbrev shc : Nat := 19

/-- The constant of the read-only register ID (R1, R32). -/
def idWord : Word := 0x47463201

/-- The constant of the read-only register CFG, made of its fields: reserved [31:29], NMAT [28:24], MAX_GAPS [23:16],
MAX_ROWS [15:0] (R33). -/
def cfgWord : Word :=
  (0#3 ++ BitVec.ofNat 5 nmat ++ BitVec.ofNat 8 maxGaps ++ BitVec.ofNat 16 maxRows : BitVec (3 + 5 + 8 + 16))

/-- LATENCY: how many host events come before the engine's step for the command that took this draw.
Finite, and nothing else is known of it (R8, R288, U3; log 3). FREE VALUE. -/
opaque latency : Nat → Nat

/-- The value of the host read that took this draw, where the spec leaves it unspecified: a read of a location other than
ID, CFG and STATUS while BUSY = 1 (R80, U2; log 4) and any read while rst is asserted (R280, U9; log 6). FREE VALUE. -/
opaque freeRead : Nat → Word

/-- The content of a row of a matrix register after the reset that took this draw: draw, register, row (R53, U1; log 1).
FREE VALUE. -/
opaque resetMatRow : Nat → Nat → Nat → Row

/-- The content of an equation row after the reset that took this draw: draw, row (R53, U1; log 1). FREE VALUE. -/
opaque resetEqnRow : Nat → Nat → Row

/-- The content of a right-hand-side bit after the reset that took this draw: draw, row (R53, U1; log 1). FREE VALUE. -/
opaque resetRhsBit : Nat → Nat → Bool

/-- The content of a gap entry after the reset that took this draw: draw, entry (R53, U1; log 1). FREE VALUE. -/
opaque resetGap : Nat → Nat → Word

/-- The 64 KiB page of the platform's address space the block sits in (R91, U13; log 11). FREE VALUE. -/
opaque basePage : Nat

/-- BASE, the host byte address of offset 0: a multiple of 0x1_0000 (R91). -/
def base : Nat := 0x10000 * basePage

end Sys2Proof.Config
end

