-- ==== Sys2Proof/Machine/State.lean ====
section
/-! DEFINITION. The architectural state of the block (`10_state.md` R30–R53), the model's own bookkeeping beside it, the
reasons a step can stop, and the state after reset. -/

namespace Sys2Proof.Machine

/-- The completion codes a command can end with (R250). -/
inductive ErrCode where
  | ok
  | singular
  | badCmd
  | badArg
  deriving DecidableEq, Repr

/-- The pending command: its 32-bit word (R51), and how many host events still come before the engine's step for it
(the model's own count of LATENCY; log 3). -/
structure Pending where
  word : Word
  wait : Nat
  deriving DecidableEq, Repr

/-- The width of a host access; only `word` is supported (R71). -/
inductive AccessSize where
  | byte
  | half
  | word
  deriving DecidableEq, Repr

/-- One event at the block's input ports (R70), in the order the outside issues them (R82; log 2).
Addresses are the 16-bit byte offset the bus carries (R70, R91). -/
inductive BusOp where
  /-- a host read -/
  | read (size : AccessSize) (addr : BitVec 16)
  /-- a host write of `data` -/
  | write (size : AccessSize) (addr : BitVec 16) (data : Word)
  /-- the host repeats `rd STATUS` until bit 0 is 0 (R84, R113; log 13) -/
  | poll
  /-- the rst input takes this level (R280; log 6) -/
  | rst (level : Bool)
  deriving DecidableEq, Repr

/-- Why the machine stops with a fault. No command faults (R255). -/
inductive Fault where
  /-- Raised by a host read of STATUS in a state whose ERR holds one of the reserved codes 4..15, which the spec says are
  never produced and a model faults on (R50, U5; log 10). Safe; no run from reset reaches it. -/
  | reservedErrCode
  deriving DecidableEq, Repr

/-- Why the model has no meaning for an input. -/
inductive Refusal where
  /-- Raised by exec's arm of an instruction that has no meaning yet; no arm does so now. Safe. -/
  | notModelled (mnemonic : String)
  /-- Raised by a host access that is narrower than 32 bits or not aligned to 4 bytes: "a model refuses any such access"
  (R71, R258, U4; log 5). Safe. -/
  | unsupportedAccess
  deriving DecidableEq, Repr

/-- The state of the block. ID and CFG are constants (Config.idWord, Config.cfgWord) and CMD stores nothing (R32, R33, R42).
STATUS.BUSY is `pending.isSome` (R51). -/
structure State where
  /-- STATUS.EQ (R47) -/
  eqFlag : Bool
  /-- STATUS.INCON (R48) -/
  incon : Bool
  /-- STATUS.OVR (R49) -/
  ovr : Bool
  /-- STATUS.ERR (R50) -/
  err : BitVec 4
  /-- ARG (R38) -/
  arg : Word
  /-- NROWS (R39) -/
  nrows : BitVec 16
  /-- NGAP (R40) -/
  ngap : BitVec 16
  /-- RANKCOL (R41) -/
  rankCol : BitVec 8
  /-- S0..S3 (R35) -/
  gen : GenState
  /-- OUT (R36) -/
  out : Word
  /-- the matrix register file M[0..15] (R43) -/
  mats : Vector Matrix 16
  /-- the equation buffer E[0..255] (R44) -/
  eqns : Vector Row 256
  /-- the right-hand-side buffer RHS[0..255] (R45) -/
  rhs : Vector Bool 256
  /-- the gap buffer G[0..63] (R46) -/
  gaps : Vector Word 64
  /-- the pending command and, as its presence, STATUS.BUSY (R51) -/
  pending : Option Pending
  /-- the level of the rst input (R70, R280) -/
  rst : Bool
  /-- bus read data: what the last host read returned (R70; log 7) -/
  rdata : Word
  /-- the host's remaining accesses and the rst changes, oldest first (the model's own field; log 2) -/
  inbox : List BusOp
  /-- the index of the next free value (the model's own field; log 8) -/
  draws : Nat
  deriving DecidableEq, Repr

/-- The block as a reset leaves it (R53, R280, R282): the registers at the values R53 gives, M, E, RHS and G at free values of
draw `d` (log 1). What the outside still does and what it last read are not the block's and are passed through. -/
def State.resetWith (d : Nat) (inbox : List BusOp) (rdata : Word) : State where
  eqFlag := false
  incon := false
  ovr := false
  err := 0
  arg := 0
  nrows := 0
  ngap := 0
  rankCol := 0
  gen := ⟨0, 0, 0, 0⟩
  out := 0
  mats := Vector.ofFn fun m => Vector.ofFn fun r => Config.resetMatRow d m.val r.val
  eqns := Vector.ofFn fun r => Config.resetEqnRow d r.val
  rhs := Vector.ofFn fun r => Config.resetRhsBit d r.val
  gaps := Vector.ofFn fun i => Config.resetGap d i.val
  pending := none
  rst := false
  rdata := rdata
  inbox := inbox
  draws := d + 1

/-- The machine right after reset, with nothing yet issued by the host (R53; logs 1, 2, 7, 8). -/
def State.reset : State := State.resetWith 0 [] 0

end Sys2Proof.Machine
end

