-- ==== Sys2Proof/Machine/Flags.lean ====
section
/-! DEFINITION. The flags, the completion codes and the STATUS word (`10_state.md` R34, R41, R47, R48, R50; `60_exceptions.md` R250). -/

namespace Sys2Proof.Machine

/-- The number of a completion code (R250). -/
def ErrCode.bits : ErrCode → BitVec 4
  | .ok => 0
  | .singular => 1
  | .badCmd => 2
  | .badArg => 3

/-- The code is one of 4..15, which no command produces (R50, U5). -/
def errReserved (e : BitVec 4) : Bool := decide (3 < e.toNat)

/-- STATUS.BUSY: a command is pending (R51). -/
def State.busy (s : State) : Bool := s.pending.isSome

/-- STATUS: ERR [7:4], OVR [3], INCON [2], EQ [1], BUSY [0], the rest 0 (R34). -/
def State.statusWord (s : State) : Word :=
  (0#24 ++ s.err ++ BitVec.ofBool s.ovr ++ BitVec.ofBool s.incon ++ BitVec.ofBool s.eqFlag ++ BitVec.ofBool s.busy :
    BitVec (24 + 4 + 1 + 1 + 1 + 1))

/-- What MEQ leaves in EQ: the matrices agree in every bit (R47, R178). -/
def eqFlagOf (A B : Matrix) : Bool := decide (A = B)

/-- What a SOLVE that found 128 pivots leaves in INCON: some row past the pivots has right-hand side 1 (R48, R223). -/
def inconOf (A : EqSystem) : Bool := (A.drop 128).any fun e => e.rhs

end Sys2Proof.Machine
end

