-- ==== Sys2Proof/Machine/Ops.lean ====
section
/-! DEFINITION. The named operations over the state that the commands and the bus share: completing a command, raising an
error, and one update per register or register file. The block takes no exception (`60_exceptions.md` R255): an error ends a
command by `raiseErr`, and there is no handler to return from. -/

namespace Sys2Proof.Machine

/-- What a step or a meaning answers. -/
abbrev Result := Host.Outcome State Fault Refusal

/-- A command completes: ERR takes its code (R50) and the pending command is gone, so BUSY is 0 (R51). -/
def State.complete (c : ErrCode) (s : State) : State := { s with err := c.bits, pending := none }

/-- A command ends with ERR = OK (R250). -/
def finish (s : State) : Result := .next (s.complete .ok)

/-- `raise Err(code)`: the command ends with ERR = code and no other change (R251). -/
def raiseErr (c : ErrCode) (s : State) : Result := .next (s.complete c)

/-! ### One update per datum -/

/-- EQ (R47). -/
def State.setEq (b : Bool) (s : State) : State := { s with eqFlag := b }
/-- INCON (R48). -/
def State.setIncon (b : Bool) (s : State) : State := { s with incon := b }
/-- OVR (R49). -/
def State.setOvr (b : Bool) (s : State) : State := { s with ovr := b }
/-- ARG (R38). -/
def State.setArg (v : Word) (s : State) : State := { s with arg := v }
/-- NROWS (R39). -/
def State.setNrows (v : BitVec 16) (s : State) : State := { s with nrows := v }
/-- NGAP (R40). -/
def State.setNgap (v : BitVec 16) (s : State) : State := { s with ngap := v }
/-- RANKCOL (R41). -/
def State.setRankCol (v : BitVec 8) (s : State) : State := { s with rankCol := v }
/-- S0..S3 (R35). -/
def State.setGen (g : GenState) (s : State) : State := { s with gen := g }
/-- OUT (R36). -/
def State.setOut (v : Word) (s : State) : State := { s with out := v }
/-- M[rd] (R43). -/
def State.setMat (rd : MatReg) (A : Matrix) (s : State) : State := { s with mats := s.mats.set rd.val A }
/-- E (R44). -/
def State.setEqns (E : Vector Row 256) (s : State) : State := { s with eqns := E }
/-- RHS (R45). -/
def State.setRhs (b : Vector Bool 256) (s : State) : State := { s with rhs := b }
/-- G (R46). -/
def State.setGaps (G : Vector Word 64) (s : State) : State := { s with gaps := G }
/-- the pending command (R51). -/
def State.setPending (p : Option Pending) (s : State) : State := { s with pending := p }
/-- the rst input's level (R280). -/
def State.setRst (b : Bool) (s : State) : State := { s with rst := b }
/-- the bus read data (R70). -/
def State.setRdata (v : Word) (s : State) : State := { s with rdata := v }
/-- the host's remaining events. -/
def State.setInbox (l : List BusOp) (s : State) : State := { s with inbox := l }
/-- one free value is used up. -/
def State.drawn (s : State) : State := { s with draws := s.draws + 1 }

/-- A word written to CMD while BUSY = 0 becomes the pending command and BUSY is 1 (R42, R51); LATENCY is drawn (log 3). -/
def State.startCommand (w : Word) (s : State) : State :=
  (s.setPending (some ⟨w, Config.latency s.draws⟩)).drawn

/-- A command word in place so that the engine's step for it is the very next one (log 14). -/
def State.placeCommand (w : Word) (s : State) : State := (s.setPending (some ⟨w, 0⟩)).setRst false

end Sys2Proof.Machine
end

