-- ==== Sys2Proof/Machine/Operands.lean ====
section
/-! DEFINITION. The operand forms of the commands: matrix registers with their index check, the state vector, the counts, the
gap entries and the equation rows (`30_encoding.md` R104, R105). -/

namespace Sys2Proof.Machine

/-- Every index names an implemented register (R104, R252 check 3). -/
def regsOk (rs : List MatReg) : Bool := rs.all fun r => decide (r.val < Config.nmat)

/-- The command goes on when its register indices are in range, and raises BADARG otherwise (R104, R252). -/
def withRegs (rs : List MatReg) (s : State) (k : State → Result) : Result := if regsOk rs then k s else raiseErr .badArg s

/-- M[r] (R43). -/
def State.mat (s : State) (r : MatReg) : Matrix := s.mats[r.val]

/-- ARG as an unsigned count (R38, R105). -/
def State.argCount (s : State) : Nat := s.arg.toNat

/-- NROWS as an unsigned count (R39, R105). -/
def State.nrowsCount (s : State) : Nat := s.nrows.toNat

/-- NGAP as an unsigned count (R40, R105). -/
def State.ngapCount (s : State) : Nat := s.ngap.toNat

/-- G[i] as an unsigned count (R46). -/
def State.gap (s : State) (i : Nat) : Nat := (s.gaps[i]?.getD 0).toNat

/-- E[r] (R44). -/
def State.eqn (s : State) (r : Nat) : Row := s.eqns[r]?.getD 0

/-- RHS[r] (R45). -/
def State.rhsBit (s : State) (r : Nat) : Bool := s.rhs[r]?.getD false

/-- The count limit of SOLVE (R220, R252 check 4). -/
def nrowsOk (n : Nat) : Bool := decide (n ≤ Config.maxRows)

/-- The count limits of MROWS (R182, R252 check 4). -/
def ngapOk (n : Nat) : Bool := decide (n ≤ Config.maxGaps) && decide (Config.nOutRows * n ≤ Config.maxRows)

end Sys2Proof.Machine
end

