-- ==== Sys2Proof/Machine/Bus.lean ====
section
/-! DEFINITION. The host interface: the address map, host reads and writes, the poll, the rst input, and the host program
notation (`20_memory.md` R70–R91; `10_state.md` R32–R46; `30_encoding.md` R113; `70_reset_and_hazards.md` R280, R281). -/

namespace Sys2Proof.Machine

/-- What an aligned offset names (R72). -/
inductive Loc where
  | id
  | cfg
  | status
  | cmd
  | arg
  | nrows
  | ngap
  | rankCol
  /-- S0..S3 -/
  | gen (k : Fin 4)
  | out
  /-- word k of E[r] -/
  | eqn (r : Fin 256) (k : Fin 4)
  /-- RHS[32·i .. 32·i+31] -/
  | rhs (i : Fin 8)
  /-- G[i] -/
  | gap (i : Fin 64)
  /-- word k of row r of M[m] -/
  | mat (m : MatReg) (r : Fin 128) (k : Fin 4)
  | reserved
  deriving DecidableEq, Repr

/-- The registers at 0x0000 .. 0x0030, by word index (R72). -/
def Loc.ofRegIndex : Nat → Loc
  | 0 => .id
  | 1 => .cfg
  | 2 => .status
  | 3 => .cmd
  | 4 => .arg
  | 5 => .nrows
  | 6 => .ngap
  | 7 => .rankCol
  | 8 => .gen 0
  | 9 => .gen 1
  | 10 => .gen 2
  | 11 => .gen 3
  | 12 => .out
  | _ => .reserved

/-- Word k of a 16-byte row, from an offset inside it (R74, R76). -/
def wordInRow (n : Nat) : Fin 4 := ⟨n % 16 / 4, by omega⟩

/-- The address map (R72, R74–R78): what the word at a byte offset is. -/
def Loc.ofOffset (a : BitVec 16) : Loc :=
  let n := a.toNat
  if n < 0x1000 then Loc.ofRegIndex (n / 4)
  else if n < 0x2000 then .eqn ⟨n % 0x1000 / 16, by omega⟩ (wordInRow n)
  else if n < 0x2020 then .rhs ⟨n % 0x20 / 4, by omega⟩
  else if n < 0x3000 then .reserved
  else if n < 0x3100 then .gap ⟨n % 0x100 / 4, by omega⟩
  else if n < 0x8000 then .reserved
  else .mat ⟨n % 0x8000 / 0x800, by omega⟩ ⟨n % 0x800 / 16, by omega⟩ (wordInRow n)

/-- The byte offset of a location: the inverse of the map; reserved ranges are named by their first offset, 0x0034 (R72–R77). -/
def Loc.offset : Loc → BitVec 16
  | .id => 0x0000
  | .cfg => 0x0004
  | .status => 0x0008
  | .cmd => 0x000C
  | .arg => 0x0010
  | .nrows => 0x0014
  | .ngap => 0x0018
  | .rankCol => 0x001C
  | .gen k => BitVec.ofNat 16 (0x0020 + 4 * k.val)
  | .out => 0x0030
  | .eqn r k => BitVec.ofNat 16 (0x1000 + 16 * r.val + 4 * k.val)
  | .rhs i => BitVec.ofNat 16 (0x2000 + 4 * i.val)
  | .gap i => BitVec.ofNat 16 (0x3000 + 4 * i.val)
  | .mat m r k => BitVec.ofNat 16 (0x8000 + 0x800 * m.val + 16 * r.val + 4 * k.val)
  | .reserved => 0x0034

/-- Only an aligned full-word access is supported (R71). -/
def accessSupported (size : AccessSize) (a : BitVec 16) : Bool := decide (size = .word) && decide (a.toNat % 4 = 0)

/-- ID, CFG and STATUS read their current value also while BUSY = 1 (R32, R33, R34, R80). -/
def Loc.readsWhileBusy : Loc → Bool
  | .id => true
  | .cfg => true
  | .status => true
  | _ => false

/-- RHS[32·i + j] at bit 31 − j of the word (R75). -/
def rhsWord (b : Vector Bool 256) (i : Nat) : Word := bitsOf 32 fun j => b[32 * i + j]?.getD false

/-- RHS with the 32 bits of word i replaced (R75). -/
def setRhsWord (b : Vector Bool 256) (i : Nat) (v : Word) : Vector Bool 256 :=
  Vector.ofFn fun r => if r.val / 32 = i then v.getMsbD (r.val % 32) else b[r.val]

/-- The value a location holds (R32–R46, R73–R78): what a read returns while BUSY = 0. -/
def State.peek (s : State) : Loc → Word
  | .id => Config.idWord
  | .cfg => Config.cfgWord
  | .status => s.statusWord
  | .cmd => 0
  | .arg => s.arg
  | .nrows => s.nrows.setWidth 32
  | .ngap => s.ngap.setWidth 32
  | .rankCol => s.rankCol.setWidth 32
  | .gen k => s.gen.word k.val
  | .out => s.out
  | .eqn r k => rowWord s.eqns[r.val] k.val
  | .rhs i => rhsWord s.rhs i.val
  | .gap i => s.gaps[i.val]
  | .mat m r k => rowWord ((s.mat m).row r.val) k.val
  | .reserved => 0

/-- A write while BUSY = 0 to a location other than STATUS (R38–R46, R73–R78): read-only registers and reserved offsets ignore
it, CMD starts a command. STATUS has its own rule, `statusWrite`. -/
def State.poke (s : State) (v : Word) : Loc → State
  | .id => s
  | .cfg => s
  | .status => s
  | .cmd => s.startCommand v
  | .arg => s.setArg v
  | .nrows => s.setNrows (v.setWidth 16)
  | .ngap => s.setNgap (v.setWidth 16)
  | .rankCol => s
  | .gen k => s.setGen (s.gen.setWord v k.val)
  | .out => s
  | .eqn r k => s.setEqns (s.eqns.set r.val (setRowWord s.eqns[r.val] k.val v))
  | .rhs i => s.setRhs (setRhsWord s.rhs i.val v)
  | .gap i => s.setGaps (s.gaps.set i.val v)
  | .mat m r k => s.setMat m ((s.mat m).set r.val (setRowWord ((s.mat m).row r.val) k.val v))
  | .reserved => s

/-- A write to STATUS: bit 3 = 1 clears OVR, everything else is ignored (R34). -/
def statusWrite (v : Word) (s : State) : State := if v.getLsbD 3 then s.setOvr false else s

/-- A host read (R71, R73, R80, R89). Under rst every read is unspecified (R280), while BUSY = 1 every read but of ID, CFG and
STATUS (R80); such a read takes a free value. -/
def hostRead (a : BitVec 16) (s : State) : Result :=
  let loc := Loc.ofOffset a
  if s.rst || (s.busy && !loc.readsWhileBusy) then .next ((s.setRdata (Config.freeRead s.draws)).drawn)
  else if loc = .status ∧ errReserved s.err then .fault .reservedErrCode
  else .next (s.setRdata (s.peek loc))

/-- A host write (R71, R81, R89): without effect under rst (R280); STATUS takes its write at any time (R34); any other write
while BUSY = 1 is dropped and sets OVR (R49, R81). -/
def hostWrite (a : BitVec 16) (v : Word) (s : State) : Result :=
  let loc := Loc.ofOffset a
  if s.rst then .next s
  else if loc = .status then .next (statusWrite v s)
  else if s.busy then .next (s.setOvr true)
  else .next (s.poke v loc)

/-- One round of the host's poll: read STATUS, and poll again while bit 0 of what it read is 1 (R84, R113). -/
def hostPoll (s : State) : Result :=
  match hostRead Loc.status.offset s with
  | .next t => .next (if t.rdata.getLsbD 0 then t.setInbox (.poll :: t.inbox) else t)
  | .fault r => .fault r
  | .refused r => .refused r

/-- The rst input takes a level (R280, R281): assertion abandons the pending command, deassertion leaves the reset state
with fresh draws for M, E, RHS and G (log 6). -/
def rstChange (level : Bool) (s : State) : State :=
  if level then (s.setRst true).setPending none
  else if s.rst then State.resetWith s.draws s.inbox s.rdata
  else s

/-- One event at the input ports. Unsupported accesses are refused (R71). -/
def busEvent (op : BusOp) (s : State) : Result :=
  match op with
  | .read size a => if accessSupported size a then hostRead a s else .refused .unsupportedAccess
  | .write size a v => if accessSupported size a then hostWrite a v s else .refused .unsupportedAccess
  | .poll => hostPoll s
  | .rst level => .next (rstChange level s)

/-! ### Platform placement and the host program notation -/

/-- The offset the block decodes from a host byte address: bits [15:0] (R91). -/
def portOffset (hostAddr : Nat) : BitVec 16 := BitVec.ofNat 16 hostAddr

/-- The host byte address of an offset (R91). -/
def hostAddress (a : BitVec 16) : Nat := Config.base + a.toNat

/-- `wr NAME, v` (R113). -/
def wrOp (loc : Loc) (v : Word) : BusOp := .write .word loc.offset v

/-- `rd NAME` (R113). -/
def rdOp (loc : Loc) : BusOp := .read .word loc.offset

/-- `cmd X` for a command: `wr CMD, enc(X)` and a poll (R113). -/
def cmdOps (i : Instr) : List BusOp := [wrOp .cmd (encode i), .poll]

/-- `cmd X` for a pseudo-instruction: one `cmd` for each command it stands for (R112, R113). -/
def pseudoOps (p : Pseudo) : List BusOp := p.expand.flatMap cmdOps

end Sys2Proof.Machine
end

