-- ==== Sys2Proof/Machine/MatrixUnit.lean ====
section
/-! DEFINITION. The matrix unit: MZERO, MIDENT, MTR, MBLK, MXOR, MMUL, MPOW, MTRN, MEQ, MAPPLY, MROWS (`41_matrix.md` R160–R185). -/

namespace Sys2Proof.Machine

/-- MZERO (R164). -/
def execMzero (rd : MatReg) (s : State) : Result :=
  withRegs [rd] s fun s => finish (s.setMat rd BitMat.zero)

/-- MIDENT (R165). -/
def execMident (rd : MatReg) (s : State) : Result :=
  withRegs [rd] s fun s => finish (s.setMat rd BitMat.ident)

/-- MTR (R166). -/
def execMtr (rd : MatReg) (s : State) : Result :=
  withRegs [rd] s fun s => finish (s.setMat rd trMatrix)

/-- MBLK (R168). -/
def execMblk (mode : BlockMode) (rd : MatReg) (bi bj : BlockIdx) (kind : BlockKind) (s : State) : Result :=
  withRegs [rd] s fun s => finish (s.setMat rd (placeBlock mode bi.val bj.val kind.block (s.mat rd)))

/-- MXOR (R170). -/
def execMxor (rd ra rb : MatReg) (s : State) : Result :=
  withRegs [rd, ra, rb] s fun s => finish (s.setMat rd ((s.mat ra).add (s.mat rb)))

/-- MMUL (R172). -/
def execMmul (rd ra rb : MatReg) (s : State) : Result :=
  withRegs [rd, ra, rb] s fun s => finish (s.setMat rd ((s.mat ra).mul (s.mat rb)))

/-- MPOW (R174). -/
def execMpow (rd ra : MatReg) (s : State) : Result :=
  withRegs [rd, ra] s fun s => finish (s.setMat rd ((s.mat ra).pow s.argCount))

/-- MTRN (R176). -/
def execMtrn (rd ra : MatReg) (s : State) : Result :=
  withRegs [rd, ra] s fun s => finish (s.setMat rd (s.mat ra).transpose)

/-- MEQ (R178). -/
def execMeq (ra rb : MatReg) (s : State) : Result :=
  withRegs [ra, rb] s fun s => finish (s.setEq (eqFlagOf (s.mat ra) (s.mat rb)))

/-- MAPPLY (R180). -/
def execMapply (ra : MatReg) (s : State) : Result :=
  withRegs [ra] s fun s => finish (s.setGen (unvec ((s.mat ra).mulVec s.gen.vec)))

/-- One record of MROWS: rows 124..127 of W into E[4·i .. 4·i+3] (R182). -/
def recordRows (i : Nat) (W : Matrix) (E : Vector Row 256) : Vector Row 256 :=
  (((E.setIfInBounds (4 * i) (W.row 124)).setIfInBounds (4 * i + 1) (W.row 125)).setIfInBounds (4 * i + 2)
    (W.row 126)).setIfInBounds (4 * i + 3) (W.row 127)

/-- The loop of MROWS from record i on, `k` records to go: record, then advance W by G[i] steps of T (R182). -/
def recordLoop (T : Matrix) (gap : Nat → Nat) : Nat → Nat → Matrix → Vector Row 256 → Vector Row 256
  | 0, _, _, E => E
  | k + 1, i, W, E => recordLoop T gap k (i + 1) (W.mul (T.pow (gap i))) (recordRows i W E)

/-- MROWS (R182). -/
def execMrows (ra : MatReg) (s : State) : Result :=
  withRegs [ra] s fun s =>
    if ngapOk s.ngapCount then
      let T := s.mat ra
      finish ((s.setEqns (recordLoop T s.gap s.ngapCount 0 T s.eqns)).setNrows (BitVec.ofNat 16 (4 * s.ngapCount)))
    else raiseErr .badArg s

end Sys2Proof.Machine
end

