-- ==== Sys2Proof/Machine/Solver.lean ====
section
/-! DEFINITION. The solver: SOLVE (`42_solver.md` R220–R229). -/

namespace Sys2Proof

/-- Row r of the working copy; rows past the last read as the empty equation. -/
def eqnAt (A : EqSystem) (r : Nat) : Equation := A[r]?.getD ⟨0, false⟩

/-- The coefficient A[r][c]. -/
def coefAt (A : EqSystem) (r c : Nat) : Bool := (eqnAt A r).coef.getMsbD c

/-- One equation added to another, the right-hand side with it (R221). -/
def Equation.add (a b : Equation) : Equation := ⟨a.coef ^^^ b.coef, a.rhs ^^ b.rhs⟩

/-- p = min of the rows r with c ≤ r < n and A[r][c] = 1 (R221, D15). -/
def findPivot (A : EqSystem) (c : Nat) : Option Nat :=
  (List.range A.length).find? fun r => decide (c ≤ r) && coefAt A r c

/-- swap A[c], A[p]; swap b[c], b[p] (R221). -/
def swapEqns (A : EqSystem) (c p : Nat) : EqSystem := (A.set c (eqnAt A p)).set p (eqnAt A c)

/-- Row c is added to every row strictly below it that has a 1 in column c (R221, C5). -/
def elimBelow (A : EqSystem) (c : Nat) : EqSystem :=
  A.mapIdx fun r e => if decide (c < r) && e.coef.getMsbD c then e.add (eqnAt A c) else e

/-- One column of FORWARD; the error is the column without a pivot (R221). -/
def forwardCol (A : EqSystem) (c : Nat) : Except Nat EqSystem :=
  match findPivot A c with
  | none => .error c
  | some p => .ok (elimBelow (swapEqns A c p) c)

/-- FORWARD over `k` columns from column c on (R221). -/
def forwardFrom : Nat → Nat → EqSystem → Except Nat EqSystem
  | 0, _, A => .ok A
  | k + 1, c, A =>
    match forwardCol A c with
    | .error e => .error e
    | .ok A' => forwardFrom k (c + 1) A'

/-- One column of BACK: row c is added to every row above it that has a 1 in column c (R222). -/
def backCol (A : EqSystem) (c : Nat) : EqSystem :=
  A.mapIdx fun r e => if decide (r < c) && e.coef.getMsbD c then e.add (eqnAt A c) else e

/-- BACK over the columns k-1 down to 0 (R222). -/
def backFrom : Nat → EqSystem → EqSystem
  | 0, A => A
  | k + 1, A => backFrom k (backCol A k)

/-- The solved bits: x[c] = b[c] (R223). -/
def solution (A : EqSystem) : Row := bitsOf 128 fun c => (eqnAt A c).rhs

namespace Machine

/-- The private copy of the first n equations (R220). -/
def State.system (s : State) (n : Nat) : EqSystem := (List.range n).map fun r => ⟨s.eqn r, s.rhsBit r⟩

/-- SOLVE ends without a pivot for column c (R224). -/
def solveSingular (c : Nat) (s : State) : Result :=
  raiseErr .singular ((s.setRankCol (BitVec.ofNat 8 c)).setIncon false)

/-- SOLVE ends with the eliminated system A (R223). -/
def solveDone (A : EqSystem) (s : State) : Result :=
  finish (((s.setGen (unvec (solution A))).setIncon (inconOf A)).setRankCol 128)

/-- SOLVE (R220). -/
def execSolve (s : State) : Result :=
  if nrowsOk s.nrowsCount then
    match forwardFrom 128 0 (s.system s.nrowsCount) with
    | .error c => solveSingular c s
    | .ok A => solveDone (backFrom 128 A) s
  else raiseErr .badArg s

end Machine

end Sys2Proof
end

