-- ==== Sys2Proof/Machine/Transition.lean ====
section
/-! DEFINITION. The transition unit: NOP, STEPF, STEPB, STEPN (`40_transition.md` R130–R139). -/

namespace Sys2Proof

/-- fwd(s) = (s', o) (R131). -/
def fwd (g : GenState) : GenState × Word :=
  let temp := g.s0 ^^^ (g.s0 <<< Config.sha)
  let new := temp ^^^ (temp >>> Config.shb) ^^^ g.s3 ^^^ (g.s3 >>> Config.shc)
  (⟨g.s1, g.s2, g.s3, new⟩, new)

/-- bwd(s), the inverse of fwd's state part; its shifts are those of R133. -/
def bwd (g : GenState) : GenState :=
  let y := g.s3 ^^^ g.s2 ^^^ (g.s2 >>> 19)
  let t := y ^^^ (y >>> 8) ^^^ (y >>> 16) ^^^ (y >>> 24)
  let s0 := t ^^^ (t <<< 11) ^^^ (t <<< 22)
  ⟨s0, g.s0, g.s1, g.s2⟩

/-- n forward steps from a state; the second component is the last output, and the given word when n = 0 (R136). -/
def fwdN : Nat → GenState × Word → GenState × Word
  | 0, p => p
  | n + 1, p => fwdN n (fwd p.1)

namespace Machine

/-- NOP (R130). -/
def execNop (s : State) : Result := finish s

/-- STEPF (R132). -/
def execStepf (s : State) : Result :=
  let p := fwd s.gen
  finish ((s.setGen p.1).setOut p.2)

/-- STEPB (R134). -/
def execStepb (s : State) : Result := finish (s.setGen (bwd s.gen))

/-- STEPN: ARG forward steps; OUT keeps its value when ARG = 0 (R136). -/
def execStepn (s : State) : Result :=
  let p := fwdN s.argCount (s.gen, s.out)
  finish ((s.setGen p.1).setOut p.2)

end Machine

end Sys2Proof
end

