-- ==== Sys2Proof/Machine/Dispatch.lean ====
section
/-! DEFINITION. The dispatch: one arm per command of the opcode table (`30_encoding.md` R106). -/

namespace Sys2Proof.Machine

def exec (i : Instr) (s : State) : Host.Outcome State Fault Refusal :=
  match i with
  -- transition unit (40_transition.md)
  | .nop => Sys2Proof.Machine.execNop s
  | .stepf => Sys2Proof.Machine.execStepf s
  | .stepb => Sys2Proof.Machine.execStepb s
  | .stepn => Sys2Proof.Machine.execStepn s
  -- matrix unit (41_matrix.md)
  | .mzero rd => Sys2Proof.Machine.execMzero rd s
  | .mident rd => Sys2Proof.Machine.execMident rd s
  | .mtr rd => Sys2Proof.Machine.execMtr rd s
  | .mblk mode rd bi bj kind => Sys2Proof.Machine.execMblk mode rd bi bj kind s
  | .mxor rd ra rb => Sys2Proof.Machine.execMxor rd ra rb s
  | .mmul rd ra rb => Sys2Proof.Machine.execMmul rd ra rb s
  | .mpow rd ra => Sys2Proof.Machine.execMpow rd ra s
  | .mtrn rd ra => Sys2Proof.Machine.execMtrn rd ra s
  | .meq ra rb => Sys2Proof.Machine.execMeq ra rb s
  | .mapply ra => Sys2Proof.Machine.execMapply ra s
  | .mrows ra => Sys2Proof.Machine.execMrows ra s
  -- solver (42_solver.md)
  | .solve => Sys2Proof.Machine.execSolve s

end Sys2Proof.Machine
end

