-- ==== Sys2Proof/Machine/Engine.lean ====
section
/-! DEFINITION. The engine's transition and the order of engine and host (`00_scope.md` R18, R19; `10_state.md` R51; `20_memory.md` R82). -/

namespace Sys2Proof.Machine

/-- The engine's single atomic transition for the pending word w: the command's rule, or BADCMD for an illegal word
(R51, R107, R252). -/
def engineStep (w : Word) (s : State) : Result :=
  match decode w with
  | .ok i => exec i s
  | .error _ => raiseErr .badCmd s

/-- The pending command after one more host event has gone before it (log 3). -/
def Pending.tick (p : Pending) : Pending := { p with wait := p.wait - 1 }

/-- One event of the system (R18, R82). With a command pending, the engine moves once the command's wait is over or the host
has nothing to issue; otherwise the host's next event takes place. With neither, the block is idle and keeps its state
(R19, R266). -/
def systemStep (s : State) : Result :=
  match s.inbox, s.pending with
  | [], none => .next s
  | [], some p => engineStep p.word s
  | op :: rest, none => busEvent op (s.setInbox rest)
  | op :: rest, some p =>
    if p.wait = 0 then engineStep p.word s else busEvent op ((s.setInbox rest).setPending (some p.tick))

end Sys2Proof.Machine
end

