-- ==== Sys2Proof/Machine/Step.lean ====
section
/-! DEFINITION. The step of the machine, and how a command word is placed so that the next step runs it. -/

namespace Sys2Proof.Machine

/-- One step: one event of the system (R82). -/
def step (s : State) : Host.Outcome State Fault Refusal := systemStep s

/-- The state with this command word pending and the engine next to move, so that `step` decodes and runs it. It stands for the
host's write of the word to CMD (R42) followed by the engine's turn (log 14). -/
def State.withFetchWord (s : State) (nbits w : Nat) : State := s.placeCommand (tableWord nbits w)

end Sys2Proof.Machine
end

