-- ==== Sys2Proof/Safety.lean ====
section
/-! DEFINITION. The terms claims are made in: what a state that a run can reach looks like, what a host that keeps to the
supported accesses issues, sequences of commands, what a command may write, what a host access
answers, and the linear system SOLVE works on with its pivots. -/

namespace Sys2Proof.Machine

/-- The relations between fields that reset establishes and every step keeps. -/
structure State.Inv (s : State) : Prop where
  /-- ERR never holds one of the reserved codes 4..15 (R50) -/
  err_produced : s.err.toNat ≤ 3
  /-- RANKCOL is a column or 128 (R41) -/
  rankCol_le : s.rankCol.toNat ≤ 128
  /-- INCON = 1 only after a SOLVE that found all its pivots (R48, R223, R224) -/
  incon_rank : s.incon = true → s.rankCol = 128
  /-- while ERR shows SINGULAR, RANKCOL is the column without a pivot and INCON is 0 (R224) -/
  singular_rank : s.err = ErrCode.singular.bits → s.rankCol.toNat < 128 ∧ s.incon = false
  /-- no command is pending while rst is asserted (R280, R281) -/
  rst_idle : s.rst = true → s.pending = none

/-- The event is one the block supports: full-word aligned accesses, polls and rst changes (R71). -/
def BusOp.supported : BusOp → Bool
  | .read size a => accessSupported size a
  | .write size a _ => accessSupported size a
  | .poll => true
  | .rst _ => true

/-- Everything the host still issues is supported. -/
def State.hostSupported (s : State) : Bool := s.inbox.all BusOp.supported

/-! ### Sequences of commands -/

/-- Commands one after another, each from the state the one before it left; stops where a command does. -/
def execAll : List Instr → State → Result
  | [], s => .next s
  | i :: is, s =>
    match exec i s with
    | .next t => execAll is t
    | .fault r => .fault r
    | .refused r => .refused r

/-- The engine answers this word with BADCMD and nothing else (R107, R251). -/
def RaisesBadCmd (w : Word) : Prop := ∀ s : State, engineStep w s = .next { s with err := 2, pending := none }

end Sys2Proof.Machine

namespace Sys2Proof

/-! ### What a command names as written (R54) -/

/-- The matrix register a command writes. -/
def Instr.dest : Instr → Option MatReg
  | .nop => none
  | .stepf => none
  | .stepb => none
  | .stepn => none
  | .mzero rd => some rd
  | .mident rd => some rd
  | .mtr rd => some rd
  | .mblk _ rd _ _ _ => some rd
  | .mxor rd _ _ => some rd
  | .mmul rd _ _ => some rd
  | .mpow rd _ => some rd
  | .mtrn rd _ => some rd
  | .meq _ _ => none
  | .mapply _ => none
  | .mrows _ => none
  | .solve => none

/-- STEPF, STEPB, STEPN, MAPPLY and SOLVE write S (R35). -/
def Instr.writesGen : Instr → Bool
  | .stepf => true
  | .stepb => true
  | .stepn => true
  | .mapply _ => true
  | .solve => true
  | _ => false

/-- STEPF and STEPN write OUT (R36). -/
def Instr.writesOut : Instr → Bool
  | .stepf => true
  | .stepn => true
  | _ => false

/-- MROWS writes E and NROWS (R39, R44). -/
def Instr.writesRows : Instr → Bool
  | .mrows _ => true
  | _ => false

/-- MEQ writes EQ (R47). -/
def Instr.writesEq : Instr → Bool
  | .meq _ _ => true
  | _ => false

/-- SOLVE writes INCON and RANKCOL (R41, R48). -/
def Instr.writesSolve : Instr → Bool
  | .solve => true
  | _ => false

/-- The locations of the address map a command may change from a state (R54). -/
def Instr.mayWrite (i : Instr) (s : Machine.State) : Machine.Loc → Bool
  | .status => true
  | .nrows => i.writesRows
  | .rankCol => i.writesSolve
  | .gen _ => i.writesGen
  | .out => i.writesOut
  | .eqn r _ => i.writesRows && decide (r.val < 4 * s.ngap.toNat)
  | .mat m _ _ => i.dest == some m
  | _ => false

end Sys2Proof

namespace Sys2Proof.Machine

/-! ### What a host write stores (R38–R46, R73–R78) -/

/-- The locations a host write stores to: the read-write registers and the windows. -/
def Loc.writable : Loc → Bool
  | .arg => true
  | .nrows => true
  | .ngap => true
  | .gen _ => true
  | .eqn _ _ => true
  | .rhs _ => true
  | .gap _ => true
  | .mat _ _ _ => true
  | _ => false

/-- What reads back after a word was written: NROWS and NGAP keep bits [15:0] (R39, R40). -/
def Loc.stored (v : Word) : Loc → Word
  | .nrows => v &&& 0x0000FFFF
  | .ngap => v &&& 0x0000FFFF
  | _ => v

/-- A host read of the word at byte offset a returns w and changes nothing but the read data. -/
def State.ReadsAs (s : State) (a : Nat) (w : Word) : Prop :=
  busEvent (.read .word (BitVec.ofNat 16 a)) s = .next { s with rdata := w }

/-- A host write of v to the word at byte offset a leaves the state t. -/
def State.WriteLeaves (s : State) (a : Nat) (v : Word) (t : State) : Prop :=
  busEvent (.write .word (BitVec.ofNat 16 a) v) s = .next t

/-! ### The linear system of SOLVE and the gaps of MROWS -/

/-- The GF(2) product of a coefficient row and a vector of unknowns (R13, R44). -/
def dot (a x : Row) : Bool := xorBits 128 fun c => a.getMsbD c && x.getMsbD c

/-- The coefficient matrix E[0..NROWS−1] has rank 128: only the zero vector solves the homogeneous system (R226). -/
def State.FullRank (s : State) : Prop := ∀ x : Row, (∀ r < s.nrows.toNat, dot (s.eqn r) x = false) → x = 0

/-- x satisfies every equation E[r]·x = RHS[r] for r < NROWS (R225). -/
def State.Satisfies (s : State) (x : Row) : Prop := ∀ r < s.nrows.toNat, dot (s.eqn r) x = s.rhsBit r

/-- Column c of E[0..NROWS−1] is a linear combination of the columns 0..c−1 (R227). -/
def State.DependentColumn (s : State) (c : Nat) : Prop :=
  ∃ x : Row, x.getMsbD c = true ∧ (∀ p, c < p → x.getMsbD p = false) ∧ ∀ r < s.nrows.toNat, dot (s.eqn r) x = false

/-- An order of the equations with the entries at rows c and p exchanged (R221). -/
def exchange (ord : Nat → Nat) (c p : Nat) : Nat → Nat := fun r => if r = c then ord p else if r = p then ord c else ord r

/-- Where `ord r` is the equation at row r, and rows 0..c−1 hold the pivots of the columns before c: the equation at row r has a 1
in column c once pivots have been added to it so that its columns before c are 0 (R221). -/
def State.Qualifies (s : State) (ord : Nat → Nat) (c r : Nat) : Prop :=
  ∃ z : Nat → Bool,
    let e := s.eqn (ord r) ^^^ xorVecs c fun i => if z i then s.eqn (ord i) else 0
    (∀ p < c, e.getMsbD p = false) ∧ e.getMsbD c = true

/-- `ord c r` is the equation that stands at row r before column c, where every column takes the lowest qualifying row at or below c as
its pivot and exchanges it with row c; `ord 128` has the 128 pivots at rows 0..127 (R221, R228, D15). -/
structure State.LowestRowPivots (s : State) (ord : Nat → Nat → Nat) : Prop where
  /-- before column 0 every equation is at its own row -/
  start : ∀ r, ord 0 r = r
  /-- the pivot of column c -/
  pivot : ∀ c < 128, ∃ p, c ≤ p ∧ p < s.nrows.toNat ∧ s.Qualifies (ord c) c p ∧
    (∀ r, c ≤ r → r < p → ¬ s.Qualifies (ord c) c r) ∧ ord (c + 1) = exchange (ord c) c p

/-- G[0] + ... + G[i−1] (R183). -/
def State.gapSum (s : State) : Nat → Nat
  | 0 => 0
  | i + 1 => s.gapSum i + s.gap i

end Sys2Proof.Machine
end

