-- ==== Sys2Proof/Certificates/Slice0/Obligations.lean ====
section
/-! DEFINITION. The statements about the model, each from the rules its docstring cites. -/

open Sys2Proof Sys2Proof.Machine

/-! ### Encoding (30_encoding.md) -/

/-- The encoding examples of R111. -/
def Obligations.CommandWordExamplesDecode : Prop :=
  decode 0x00000000 = .ok .nop ∧
  decode 0x01000000 = .ok .stepf ∧
  decode 0x02000000 = .ok .stepb ∧
  decode 0x03000000 = .ok .stepn ∧
  decode 0x20000000 = .ok .solve ∧
  decode 0x10100000 = .ok (.mzero 1) ∧
  decode 0x11700000 = .ok (.mident 7) ∧
  decode 0x12000000 = .ok (.mtr 0) ∧
  decode 0x13114000 = .ok (.mblk .set 1 0 1 .ident) ∧
  decode 0x131FA0ED = .ok (.mblk .xor 1 3 3 (.shift (-19))) ∧
  decode 0x133CA00B = .ok (.mblk .xor 3 3 0 (.shift 11)) ∧
  decode 0x1320801F = .ok (.mblk .set 2 0 0 (.shift 31)) ∧
  decode 0x13208080 = .ok (.mblk .set 2 0 0 (.shift (-128))) ∧
  decode 0x14114000 = .ok (.mxor 1 1 4) ∧
  decode 0x15312000 = .ok (.mmul 3 1 2) ∧
  decode 0x16100000 = .ok (.mpow 1 0) ∧
  decode 0x17540000 = .ok (.mtrn 5 4) ∧
  decode 0x18001000 = .ok (.meq 0 1) ∧
  decode 0x19010000 = .ok (.mapply 1) ∧
  decode 0x1A000000 = .ok (.mrows 0)

/-- Decoding the encoding of a well-formed command gives it back, for every operand value the encoding admits (R100–R106). -/
def Obligations.DecodeOfEncode : Prop :=
  ∀ i : Instr, i.wf = true → decode (encode i) = .ok i

/-- A legal word is the encoding of the well-formed command it decodes to: no bit of a word is dropped (R101, R102, R107). -/
def Obligations.EncodeOfDecode : Prop :=
  ∀ (w : Word) (i : Instr), decode w = .ok i → encode i = w ∧ i.wf = true

/-- The legal words are exactly those that match a row of the opcode table, with KIND ≠ 3, and K = 0 unless KIND = 2, for MBLK
(R102, R103, R106, R107). The pairs are the table's match and mask. -/
def Obligations.LegalWordsAreTheTableRows : Prop :=
  ∀ w : Word, (∃ i, decode w = .ok i) ↔
    (∃ row ∈ ([(0x00000000, 0xFFFFFFFF), (0x01000000, 0xFFFFFFFF), (0x02000000, 0xFFFFFFFF), (0x03000000, 0xFFFFFFFF),
        (0x10000000, 0xFF0FFFFF), (0x11000000, 0xFF0FFFFF), (0x12000000, 0xFF0FFFFF), (0x13000000, 0xFF001F00),
        (0x14000000, 0xFF000FFF), (0x15000000, 0xFF000FFF), (0x16000000, 0xFF00FFFF), (0x17000000, 0xFF00FFFF),
        (0x18000000, 0xFFF00FFF), (0x19000000, 0xFFF0FFFF), (0x1A000000, 0xFFF0FFFF), (0x20000000, 0xFFFFFFFF)] :
        List (Word × Word)), w &&& row.2 = row.1) ∧
    (w.extractLsb' 24 8 = 0x13 → w.extractLsb' 14 2 ≠ 3 ∧ (w.extractLsb' 14 2 ≠ 2 → w.extractLsb' 0 8 = 0))

/-- An illegal command word completes with ERR = BADCMD and changes no other state (R107). -/
def Obligations.IllegalWordRaisesBadCmd : Prop :=
  ∀ (s : State) (p : Pending), s.pending = some p → (s.inbox = [] ∨ p.wait = 0) → (∀ i, decode p.word ≠ .ok i) →
    step s = .next { s with err := 2, pending := none }

/-- What a step is. When the pending word decodes to a command and the engine is next to move, the step is that command's meaning at
that state, with nothing added around it (R18, R51); when the host is next to move, the step is its next event at the state with the
event taken off its list, and with a pending command's wait counted down (R18, R82). The host's list is log 2's, who is next to move
by wait and list is log 3's: the model's choices. The same of a word that withFetchWord places with wait 0 and rst low, which is the
model's choice (log 14). -/
def Obligations.StepRunsDecodedCommand : Prop :=
  (∀ (s : State) (p : Pending) (i : Instr), s.pending = some p → (s.inbox = [] ∨ p.wait = 0) → decode p.word = .ok i →
    step s = exec i s) ∧
  (∀ (s : State) (w : Word) (i : Instr), decode w = .ok i →
    step (s.withFetchWord 32 w.toNat) = exec i { s with pending := some ⟨w, 0⟩, rst := false }) ∧
  (∀ (s : State) (op : BusOp) (rest : List BusOp), s.inbox = op :: rest →
    (s.pending = none → step s = busEvent op { s with inbox := rest }) ∧
    (∀ p : Pending, s.pending = some p → p.wait ≠ 0 →
      step s = busEvent op { s with inbox := rest, pending := some ⟨p.word, p.wait - 1⟩ }))

/-! ### Completion and errors (10_state.md, 60_exceptions.md) -/

/-- Every command completes with BUSY = 0. Only SOLVE ends with SINGULAR, only SOLVE and MROWS end with BADARG (NMAT = 16, so no
index does), and every other completion is OK (R50, R51, R104, R250). -/
def Obligations.EveryCommandCompletes : Prop :=
  ∀ (i : Instr) (s : State), ∃ t, exec i s = .next t ∧ t.busy = false ∧
    (t.err = 0 ∨ (t.err = 1 ∧ i = .solve) ∨ (t.err = 3 ∧ (i = .solve ∨ ∃ ra, i = .mrows ra)))

/-- `raise Err(code)` changes ERR and nothing else, but for the RANKCOL and INCON of SINGULAR (R251). -/
def Obligations.ErrorsChangeNothingElse : Prop :=
  ∀ (w : Word) (s t : State), engineStep w s = .next t →
    ((t.err = 2 ∨ t.err = 3) → t = { s with err := t.err, pending := none }) ∧
    (t.err = 1 → t = { s with err := 1, rankCol := t.rankCol, incon := t.incon, pending := none })

/-- NGAP > 64 in MROWS and NROWS > 256 in SOLVE raise BADARG and change nothing else (R182, R220, R250, R252). -/
def Obligations.CountLimitsRaiseBadArg : Prop :=
  (∀ (ra : MatReg) (s : State), 64 < s.ngap.toNat → exec (.mrows ra) s = .next { s with err := 3, pending := none }) ∧
  (∀ s : State, 256 < s.nrows.toNat → exec .solve s = .next { s with err := 3, pending := none })

/-! ### Transition unit (40_transition.md) -/

/-- NOP clears ERR and changes nothing else; OVR stays; any bit of [23:0] makes the word BADCMD (R130). -/
def Obligations.NopClearsErrOnly : Prop :=
  decode 0x00000000 = .ok .nop ∧
  (∀ s : State, exec .nop s = .next { s with err := 0, pending := none }) ∧
  (∀ w : Word, w.extractLsb' 24 8 = 0x00 → w.extractLsb' 0 24 ≠ 0 → RaisesBadCmd w)

/-- STEPF performs the forward step of R131 on S and puts the new s3 into OUT; nothing else but ERR and BUSY changes. -/
def Obligations.StepfForwardFormula : Prop :=
  ∀ s : State,
    let temp := s.gen.s0 ^^^ (s.gen.s0 <<< 11)
    let new := temp ^^^ (temp >>> 8) ^^^ s.gen.s3 ^^^ (s.gen.s3 >>> 19)
    exec .stepf s = .next { s with gen := ⟨s.gen.s1, s.gen.s2, s.gen.s3, new⟩, out := new, err := 0, pending := none }

/-- STEPB performs the backward step of R133 on S; OUT and everything else but ERR and BUSY keep their values (R134). -/
def Obligations.StepbBackwardFormula : Prop :=
  ∀ s : State,
    let y := s.gen.s3 ^^^ s.gen.s2 ^^^ (s.gen.s2 >>> 19)
    let t := y ^^^ (y >>> 8) ^^^ (y >>> 16) ^^^ (y >>> 24)
    let s0 := t ^^^ (t <<< 11) ^^^ (t <<< 22)
    exec .stepb s = .next { s with gen := ⟨s0, s.gen.s0, s.gen.s1, s.gen.s2⟩, err := 0, pending := none }

/-- STEPN leaves the state that ARG successive STEPF commands leave; with ARG = 0 nothing but ERR and BUSY changes (R136, R137). -/
def Obligations.StepnIsRepeatedStepf : Prop :=
  ∀ s : State, ∃ t, execAll (List.replicate s.arg.toNat .stepf) s = .next t ∧
    exec .stepn s = .next { t with err := 0, pending := none }

/-- STEPB undoes STEPF and STEPF undoes STEPB, from every S (R135). -/
def Obligations.StepsAreInverse : Prop :=
  ∀ s : State, (∃ t, execAll [.stepf, .stepb] s = .next t ∧ t.gen = s.gen) ∧
    (∃ t, execAll [.stepb, .stepf] s = .next t ∧ t.gen = s.gen)

/-- The state part of the forward step and the backward step are linear, and the forward one is v ↦ Tr·v (R139, R160). -/
def Obligations.StepsAreLinear : Prop :=
  (∀ a b : GenState, (fwd (a.add b)).1 = (fwd a).1.add (fwd b).1) ∧
  (∀ a b : GenState, bwd (a.add b) = (bwd a).add (bwd b)) ∧
  (∀ g : GenState, (fwd g).1.vec = trMatrix.mulVec g.vec)

/-! ### Matrix unit (41_matrix.md) -/

/-- Tr^n · vec(S) is the vector of S advanced by n forward steps, for every S and n (R175). -/
def Obligations.PowerLaw : Prop :=
  ∀ (n : Nat) (g : GenState) (o : Word), (trMatrix.pow n).mulVec g.vec = (fwdN n (g, o)).1.vec

/-- After MPOW md, m with M[m] = Tr, MAPPLY md leaves the S that STEPN leaves from the same S and ARG, and keeps OUT (R181). -/
def Obligations.MpowMapplyEqualsStepn : Prop :=
  ∀ (s : State) (md m : MatReg), s.mat m = trMatrix →
    ∃ t u, execAll [.mpow md m, .mapply md] s = .next t ∧ exec .stepn s = .next u ∧ t.gen = u.gen ∧ t.out = s.out

/-- MZERO leaves all zeros and MIDENT the identity in M[RD]; nothing else but ERR and BUSY changes (R164, R165). -/
def Obligations.MzeroMidentEntries : Prop :=
  ∀ (rd : MatReg) (s : State),
    (∃ A : Matrix, exec (.mzero rd) s = .next { s with mats := s.mats.set rd.val A, err := 0, pending := none } ∧
      ∀ r < 128, ∀ c < 128, A.bit r c = false) ∧
    (∃ A : Matrix, exec (.mident rd) s = .next { s with mats := s.mats.set rd.val A, err := 0, pending := none } ∧
      ∀ r < 128, ∀ c < 128, A.bit r c = decide (r = c))

/-- MTR leaves Tr in M[RD], with the ones exactly where the closed form of R161 has them; nothing else but ERR and BUSY changes (R166). -/
def Obligations.MtrEntries : Prop :=
  ∀ (rd : MatReg) (s : State),
    ∃ A : Matrix, exec (.mtr rd) s = .next { s with mats := s.mats.set rd.val A, err := 0, pending := none } ∧
      ∀ r < 128, ∀ c < 128, (A.bit r c = true ↔
        (r ≤ 95 ∧ c = r + 32) ∨
        (96 ≤ r ∧
          (c = r - 96 ∨ (r - 96 ≤ 20 ∧ c = r - 96 + 11) ∨ (8 ≤ r - 96 ∧ c = r - 96 - 8) ∨
            (8 ≤ r - 96 ∧ r - 96 ≤ 28 ∧ c = r - 96 + 3) ∨ c = r ∨ (19 ≤ r - 96 ∧ c = r - 19))))

/-- MBLK replaces (set) or adds into (xor) block (BI, BJ) of M[RD] the zero, identity or shifted-identity block; every bit
outside the block and everything else but ERR and BUSY keep their values (R163, R168). -/
def Obligations.MblkPlacesBlock : Prop :=
  ∀ (mode : BlockMode) (rd : MatReg) (bi bj : BlockIdx) (kind : BlockKind) (s : State),
    ∃ A : Matrix,
      exec (.mblk mode rd bi bj kind) s = .next { s with mats := s.mats.set rd.val A, err := 0, pending := none } ∧
      ∀ r < 128, ∀ c < 128,
        let P : Bool := match kind with
          | .zero => false
          | .ident => decide (r % 32 = c % 32)
          | .shift k => decide (((c % 32 : Nat) : Int) = ((r % 32 : Nat) : Int) + k)
        A.bit r c =
          if r / 32 = bi.val ∧ c / 32 = bj.val then (match mode with | .set => P | .xor => (s.mat rd).bit r c ^^ P)
          else (s.mat rd).bit r c

/-- shift(k) has its ones at j = i + k, shifts a word left by k for k ≥ 0 and right by −k for k < 0, is the identity for k = 0
and the zero block for |k| ≥ 32 (R163). -/
def Obligations.ShiftBlockShiftsWords : Prop :=
  ∀ k : Int,
    (∀ i < 32, ∀ j < 32, ((shiftBlock k).bit i j = true ↔ (j : Int) = (i : Int) + k)) ∧
    (∀ x : Word, 0 ≤ k → (shiftBlock k).mulVec x = x <<< k.toNat) ∧
    (∀ x : Word, k < 0 → (shiftBlock k).mulVec x = x >>> (-k).toNat) ∧
    (k = 0 → shiftBlock k = BitMat.ident) ∧
    (32 ≤ k ∨ k ≤ -32 → shiftBlock k = BitMat.zero)

/-- MXOR leaves the bitwise sum of the old M[RA] and M[RB] in M[RD], also when RD is one of them; nothing else but ERR and BUSY
changes (R14, R16, R170). -/
def Obligations.MxorEntries : Prop :=
  ∀ (rd ra rb : MatReg) (s : State),
    ∃ A : Matrix, exec (.mxor rd ra rb) s = .next { s with mats := s.mats.set rd.val A, err := 0, pending := none } ∧
      ∀ r < 128, ∀ c < 128, A.bit r c = ((s.mat ra).bit r c ^^ (s.mat rb).bit r c)

/-- MMUL leaves the GF(2) product of the old M[RA] and M[RB] in M[RD], also when RD is one of them; nothing else but ERR and BUSY
changes (R14, R16, R172). -/
def Obligations.MmulEntries : Prop :=
  ∀ (rd ra rb : MatReg) (s : State),
    ∃ A : Matrix, exec (.mmul rd ra rb) s = .next { s with mats := s.mats.set rd.val A, err := 0, pending := none } ∧
      ∀ r < 128, ∀ c < 128, A.bit r c = xorBits 128 fun k => (s.mat ra).bit r k && (s.mat rb).bit k c

/-- MPOW is MIDENT and then ARG times MMUL by M[RA]; the result does not depend on which register receives it, RD = RA included,
and nothing else but ERR and BUSY changes (R16, R174). -/
def Obligations.MpowIsRepeatedMmul : Prop :=
  (∀ (rd ra : MatReg) (s : State), rd ≠ ra →
    exec (.mpow rd ra) s = execAll (.mident rd :: List.replicate s.arg.toNat (.mmul rd rd ra)) s) ∧
  (∀ (ra : MatReg) (s : State), ∃ A : Matrix, ∀ rd : MatReg,
    exec (.mpow rd ra) s = .next { s with mats := s.mats.set rd.val A, err := 0, pending := none })

/-- MTRN leaves the transpose of the old M[RA] in M[RD], in place too; nothing else but ERR and BUSY changes (R16, R176). -/
def Obligations.MtrnEntries : Prop :=
  ∀ (rd ra : MatReg) (s : State),
    ∃ A : Matrix, exec (.mtrn rd ra) s = .next { s with mats := s.mats.set rd.val A, err := 0, pending := none } ∧
      ∀ r < 128, ∀ c < 128, A.bit r c = (s.mat ra).bit c r

/-- MEQ sets EQ exactly when the two matrices agree in every bit; nothing else but ERR and BUSY changes (R47, R178). -/
def Obligations.MeqComparesEveryBit : Prop :=
  ∀ (ra rb : MatReg) (s : State),
    ∃ b : Bool, exec (.meq ra rb) s = .next { s with eqFlag := b, err := 0, pending := none } ∧
      (b = true ↔ ∀ r < 128, ∀ c < 128, (s.mat ra).bit r c = (s.mat rb).bit r c)

/-- MAPPLY leaves M[RA]·vec(S) in S, position p being bit 31 − (p mod 32) of word p div 32; OUT and everything else but ERR and
BUSY keep their values (R12, R13, R180). -/
def Obligations.MapplyEntries : Prop :=
  ∀ (ra : MatReg) (s : State),
    ∃ g : GenState, exec (.mapply ra) s = .next { s with gen := g, err := 0, pending := none } ∧
      ∀ r < 128, (g.word (r / 32)).getLsbD (31 - r % 32) =
        xorBits 128 fun c => (s.mat ra).bit r c && (s.gen.word (c / 32)).getLsbD (31 - c % 32)

/-- The product is associative, powers of one matrix commute and add, and T^n applies T n times (R173). -/
def Obligations.CompositionLaws : Prop :=
  (∀ A B C : Matrix, (A.mul B).mul C = A.mul (B.mul C)) ∧
  (∀ (T : Matrix) (a b : Nat), (T.pow a).mul (T.pow b) = T.pow (a + b) ∧ (T.pow b).mul (T.pow a) = T.pow (a + b)) ∧
  (∀ (T : Matrix) (n : Nat) (v : Row), (T.pow n).mulVec v = Nat.repeat T.mulVec n v)

/-- (A·B)^T = B^T·A^T, (A XOR B)^T = A^T XOR B^T and (A^n)^T = (A^T)^n (R177). -/
def Obligations.TransposeLaws : Prop :=
  (∀ A B : Matrix, (A.mul B).transpose = B.transpose.mul A.transpose) ∧
  (∀ A B : Matrix, (A.add B).transpose = A.transpose.add B.transpose) ∧
  (∀ (A : Matrix) (n : Nat), (A.pow n).transpose = A.transpose.pow n)

/-- The product of a matrix that is zero but for block (p, q) = X and one that is zero but for block (q, t) = Y is zero but for
block (p, t) = X·Y (R169). -/
def Obligations.BlockCompositionLaw : Prop :=
  ∀ (p q t : BlockIdx) (X Y : Block),
    (placeBlock .set p.val q.val X BitMat.zero).mul (placeBlock .set q.val t.val Y BitMat.zero) =
      placeBlock .set p.val t.val (X.mul Y) BitMat.zero

/-- What the pseudo-instructions' expansions do: MCOPY copies, also onto itself; MSQR squares; MCLR and CLRERR are MZERO and NOP;
MSHIFT sets the block shift(k); MIXS sets the block I XOR shift(k) (R112). -/
def Obligations.PseudoInstructionsMean : Prop :=
  ∀ (md ma : MatReg) (bi bj : BlockIdx) (k : Int) (s : State),
    execAll (Pseudo.mcopy md ma).expand s =
      .next { s with mats := s.mats.set md.val (s.mat ma), err := 0, pending := none } ∧
    execAll (Pseudo.msqr md ma).expand s =
      .next { s with mats := s.mats.set md.val ((s.mat ma).mul (s.mat ma)), err := 0, pending := none } ∧
    execAll (Pseudo.mclr md).expand s = exec (.mzero md) s ∧
    execAll Pseudo.clrerr.expand s = exec .nop s ∧
    execAll (Pseudo.mshift md bi bj k).expand s =
      .next { s with
        mats := s.mats.set md.val (placeBlock .set bi.val bj.val (shiftBlock k) (s.mat md)), err := 0, pending := none } ∧
    execAll (Pseudo.mixs md bi bj k).expand s =
      .next { s with
        mats := s.mats.set md.val (placeBlock .set bi.val bj.val (BitMat.add BitMat.ident (shiftBlock k)) (s.mat md)),
        err := 0, pending := none }

/-- MROWS leaves in E[4·i + q] row 124 + q of T^(1 + G[0] + ... + G[i−1]), keeps the E rows from 4·NGAP on, sets NROWS = 4·NGAP
and changes nothing else but ERR and BUSY; with T = Tr each row is the linear expression, over the bits of a state, of bit
3 − q of the output of that forward step (R182, R183). -/
def Obligations.MrowsRecordsPowers : Prop :=
  ∀ (ra : MatReg) (s : State), s.ngap.toNat ≤ 64 →
    ∃ E : Vector Row 256,
      exec (.mrows ra) s =
        .next { s with eqns := E, nrows := BitVec.ofNat 16 (4 * s.ngap.toNat), err := 0, pending := none } ∧
      (∀ i < s.ngap.toNat, ∀ q < 4, E[4 * i + q]? = some (((s.mat ra).pow (1 + s.gapSum i)).row (124 + q))) ∧
      (∀ r, 4 * s.ngap.toNat ≤ r → E[r]? = s.eqns[r]?) ∧
      (s.mat ra = trMatrix → ∀ i < s.ngap.toNat, ∀ q < 4, ∀ g : GenState,
        dot (E[4 * i + q]?.getD 0) g.vec = (fwdN (1 + s.gapSum i) (g, 0)).2.getLsbD (3 - q))

/-! ### Solver (42_solver.md) -/

/-- SOLVE succeeds exactly when E[0..NROWS−1] has rank 128. On success it writes RANKCOL = 128, ERR = 0, an INCON (which
InconTellsWhetherAllHold says), and S the solution of the 128 equations that become pivots when every column takes the lowest
qualifying row, whatever INCON is; otherwise ERR = SINGULAR, INCON = 0 and RANKCOL a column below 128 (which
RankColIsFirstDependentColumn says), with S unchanged. Nothing else but BUSY changes (R220, R221, R223, R224, R226, R228). -/
def Obligations.SolveDecidesRank : Prop :=
  ∀ s : State, s.nrows.toNat ≤ 256 →
    (s.FullRank → ∃ (g : GenState) (b : Bool) (ord : Nat → Nat → Nat),
      exec .solve s = .next { s with gen := g, incon := b, rankCol := 128, err := 0, pending := none } ∧
      s.LowestRowPivots ord ∧ ∀ i < 128, dot (s.eqn (ord 128 i)) g.vec = s.rhsBit (ord 128 i)) ∧
    (¬ s.FullRank → ∃ c < 128,
      exec .solve s = .next { s with incon := false, rankCol := BitVec.ofNat 8 c, err := 1, pending := none })

/-- After a SOLVE that succeeded, INCON = 0 exactly when the S it left satisfies every equation (R225). -/
def Obligations.InconTellsWhetherAllHold : Prop :=
  ∀ s t : State, exec .solve s = .next t → t.err = 0 → (t.incon = false ↔ s.Satisfies t.gen.vec)

/-- With rank 128, a solution x of the system is what SOLVE leaves in S, with INCON = 0 (R226). -/
def Obligations.SolveFindsTheSolution : Prop :=
  ∀ (s : State) (x : GenState), s.nrows.toNat ≤ 256 → s.FullRank → s.Satisfies x.vec →
    exec .solve s = .next { s with gen := x, incon := false, rankCol := 128, err := 0, pending := none }

/-- The column a SINGULAR outcome reports is the smallest whose column in E[0..NROWS−1] is a linear combination of the columns
before it (R227). -/
def Obligations.RankColIsFirstDependentColumn : Prop :=
  ∀ s t : State, exec .solve s = .next t → t.err = 1 →
    s.DependentColumn t.rankCol.toNat ∧ ∀ c < t.rankCol.toNat, ¬ s.DependentColumn c

/-- Every SOLVE with fewer than 128 rows raises SINGULAR at a column c ≤ NROWS (R226). -/
def Obligations.TooFewRowsAreSingular : Prop :=
  ∀ s : State, s.nrows.toNat < 128 → ∃ c ≤ s.nrows.toNat,
    exec .solve s = .next { s with incon := false, rankCol := BitVec.ofNat 8 c, err := 1, pending := none }

/-- Two equal rows with different right-hand sides do not stop a SOLVE of rank 128; it sets INCON = 1 (R229, C1). -/
def Obligations.ContradictingDuplicatesSetIncon : Prop :=
  ∀ (s : State) (i j : Nat), s.nrows.toNat ≤ 256 → s.FullRank → i < s.nrows.toNat → j < s.nrows.toNat →
    s.eqn i = s.eqn j → s.rhsBit i ≠ s.rhsBit j →
    ∃ g : GenState, exec .solve s = .next { s with gen := g, incon := true, rankCol := 128, err := 0, pending := none }

/-! ### What commands leave alone (10_state.md R35–R50, R54) -/

/-- Each register is changed only by the commands that name it: EQ by MEQ, INCON and RANKCOL by SOLVE, S by STEPF, STEPB, STEPN,
MAPPLY and SOLVE, OUT by STEPF and STEPN, NROWS and E by MROWS, a matrix register by a command with that destination; no command
changes ARG, NGAP, RHS, G, OVR, the rst level or the host's side. -/
def Obligations.CommandsWriteOnlyTheirRegisters : Prop :=
  ∀ (i : Instr) (s t : State), exec i s = .next t →
    (i.writesEq = false → t.eqFlag = s.eqFlag) ∧
    (i.writesSolve = false → t.incon = s.incon ∧ t.rankCol = s.rankCol) ∧
    (i.writesGen = false → t.gen = s.gen) ∧
    (i.writesOut = false → t.out = s.out) ∧
    (i.writesRows = false → t.nrows = s.nrows ∧ t.eqns = s.eqns) ∧
    (∀ m : MatReg, i.dest ≠ some m → t.mat m = s.mat m) ∧
    t.arg = s.arg ∧ t.ngap = s.ngap ∧ t.rhs = s.rhs ∧ t.gaps = s.gaps ∧ t.ovr = s.ovr ∧ t.rst = s.rst ∧
    t.rdata = s.rdata ∧ t.inbox = s.inbox ∧ t.draws = s.draws

/-- Every word of the 64 KiB address space outside what the command names as written holds after it what it held before; of E,
MROWS writes only the rows below 4·NGAP (R43, R44, R45, R46, R54, R182). -/
def Obligations.CommandsKeepOtherLocations : Prop :=
  ∀ (i : Instr) (s t : State) (a : BitVec 16), exec i s = .next t → i.mayWrite s (Loc.ofOffset a) = false →
    t.peek (Loc.ofOffset a) = s.peek (Loc.ofOffset a)

/-! ### Host interface (20_memory.md, 10_state.md) -/

/-- STATUS: the layout of its fields, reads at any time outside rst, writes that clear OVR by bit 3 and do nothing else, and 0
after reset (R34). The reserved ERR codes, on which a read faults (log 10), are excluded by the premise on err. -/
def Obligations.StatusFields : Prop :=
  (∀ s : State,
    s.statusWord.getLsbD 0 = s.pending.isSome ∧ s.statusWord.getLsbD 1 = s.eqFlag ∧ s.statusWord.getLsbD 2 = s.incon ∧
    s.statusWord.getLsbD 3 = s.ovr ∧ s.statusWord.extractLsb' 4 4 = s.err ∧ s.statusWord.extractLsb' 8 24 = 0) ∧
  (∀ s : State, s.rst = false → s.err.toNat ≤ 3 →
    busEvent (.read .word 0x0008) s = .next { s with rdata := s.statusWord }) ∧
  (∀ (s : State) (v : Word), s.rst = false →
    busEvent (.write .word 0x0008 v) s = .next (if v.getLsbD 3 then { s with ovr := false } else s)) ∧
  State.reset.statusWord = 0

/-- While BUSY = 1 a write to anything but STATUS changes nothing but OVR, which it sets; a write to STATUS is performed (R81). -/
def Obligations.BusyWritesAreDropped : Prop :=
  ∀ (s : State) (a : BitVec 16) (v : Word), s.rst = false → s.busy = true → a.toNat % 4 = 0 →
    (Loc.ofOffset a ≠ .status → busEvent (.write .word a v) s = .next { s with ovr := true }) ∧
    (Loc.ofOffset a = .status →
      busEvent (.write .word a v) s = .next (if v.getLsbD 3 then { s with ovr := false } else s))

/-- While BUSY = 1 a read of ID, CFG or STATUS returns its current value, and a read of anything else takes a fresh free value
(R80). -/
def Obligations.BusyReadsAreFree : Prop :=
  ∀ (s : State) (a : BitVec 16), s.rst = false → s.busy = true → s.err.toNat ≤ 3 → a.toNat % 4 = 0 →
    (Loc.ofOffset a = .id → busEvent (.read .word a) s = .next { s with rdata := 0x47463201 }) ∧
    (Loc.ofOffset a = .cfg → busEvent (.read .word a) s = .next { s with rdata := 0x10400100 }) ∧
    (Loc.ofOffset a = .status → busEvent (.read .word a) s = .next { s with rdata := s.statusWord }) ∧
    (Loc.ofOffset a ≠ .id → Loc.ofOffset a ≠ .cfg → Loc.ofOffset a ≠ .status →
      busEvent (.read .word a) s = .next { s with rdata := Config.freeRead s.draws, draws := s.draws + 1 })

/-- No read changes anything but the read data and the count of free values; while BUSY = 0 a read repeated returns the same value;
and a write to anything but CMD repeated while BUSY = 0 has the effect of writing once (R89). -/
def Obligations.AccessesAreIdempotent : Prop :=
  ∀ (s t : State) (a : BitVec 16),
    (busEvent (.read .word a) s = .next t → t = { s with rdata := t.rdata, draws := t.draws }) ∧
    (s.rst = false → s.busy = false → busEvent (.read .word a) s = .next t → busEvent (.read .word a) t = .next t) ∧
    (∀ v : Word, s.busy = false → Loc.ofOffset a ≠ .cmd →
      busEvent (.write .word a v) s = .next t → busEvent (.write .word a v) t = .next t)

/-- While BUSY = 0, a host read of any location returns the value State.peek gives the location and changes nothing but the read data;
a word written to a read-write register or a window word reads back (NROWS and NGAP its low 16 bits); read-only registers and
reserved offsets ignore the write; every other location keeps its value (R32–R46, R72–R78, R82). What a write to STATUS or CMD
does is said by statements of their own; the reserved ERR codes, on which a read of STATUS faults (log 10), are excluded by a premise
on err. -/
def Obligations.WrittenWordsReadBack : Prop :=
  (∀ (s : State) (a : BitVec 16), s.rst = false → s.busy = false → a.toNat % 4 = 0 →
    (Loc.ofOffset a = .status → s.err.toNat ≤ 3) →
    busEvent (.read .word a) s = .next { s with rdata := s.peek (Loc.ofOffset a) }) ∧
  (∀ (s : State) (a : BitVec 16) (v : Word), s.rst = false → s.busy = false → a.toNat % 4 = 0 →
    Loc.ofOffset a ≠ .status → Loc.ofOffset a ≠ .cmd →
    ∃ t, busEvent (.write .word a v) s = .next t ∧
      ((Loc.ofOffset a).writable = true →
        t.peek (Loc.ofOffset a) = (Loc.ofOffset a).stored v ∧
        busEvent (.read .word a) t = .next { t with rdata := (Loc.ofOffset a).stored v }) ∧
      ((Loc.ofOffset a).writable = false → t = s) ∧
      (∀ b : BitVec 16, Loc.ofOffset b ≠ Loc.ofOffset a → t.peek (Loc.ofOffset b) = s.peek (Loc.ofOffset b)) ∧
      t.pending = none ∧ t.rst = false ∧ t.rdata = s.rdata ∧ t.inbox = s.inbox ∧ t.draws = s.draws)

/-- A word written to CMD while BUSY = 0 becomes the pending command and BUSY is 1; while BUSY = 1 the write is dropped and sets
OVR; CMD reads 0 (R42). -/
def Obligations.CmdWriteStartsCommand : Prop :=
  (∀ (s : State) (w : Word), s.rst = false → s.busy = false →
    ∃ n d : Nat, busEvent (.write .word 0x000C w) s = .next { s with pending := some ⟨w, n⟩, draws := d }) ∧
  (∀ (s : State) (w : Word), s.rst = false → s.busy = true →
    busEvent (.write .word 0x000C w) s = .next { s with ovr := true }) ∧
  (∀ s : State, s.rst = false → s.busy = false → busEvent (.read .word 0x000C) s = .next { s with rdata := 0 })

/-- The reserved offsets of R72 read 0 and ignore writes while BUSY = 0; while BUSY = 1 a write there sets OVR (R78). -/
def Obligations.ReservedOffsetsReadZero : Prop :=
  ∀ (s : State) (a : BitVec 16) (v : Word), s.rst = false → a.toNat % 4 = 0 →
    ((0x0034 ≤ a.toNat ∧ a.toNat ≤ 0x0FFF) ∨ (0x2020 ≤ a.toNat ∧ a.toNat ≤ 0x2FFF) ∨
      (0x3100 ≤ a.toNat ∧ a.toNat ≤ 0x7FFF)) →
    (s.busy = false → busEvent (.read .word a) s = .next { s with rdata := 0 } ∧ busEvent (.write .word a v) s = .next s) ∧
    (s.busy = true → busEvent (.write .word a v) s = .next { s with ovr := true })

/-- A sub-word or misaligned access is refused, in every state (R71; log 5). -/
def Obligations.UnsupportedAccessIsRefused : Prop :=
  ∀ (s : State) (size : AccessSize) (a : BitVec 16) (v : Word), (size ≠ .word ∨ a.toNat % 4 ≠ 0) →
    busEvent (.read size a) s = .refused .unsupportedAccess ∧ busEvent (.write size a v) s = .refused .unsupportedAccess

/-- OVR is set in a step only by a host write other than to STATUS that BUSY = 1 dropped, and is cleared only by a STATUS write
with bit 3 = 1 or by reset; no command clears it (R49). That reset clears it at the deassertion of rst, and that the assertion keeps
it, is the model's reading (log 6). -/
def Obligations.OvrIsSticky : Prop :=
  ∀ s t : State, step s = .next t →
    (s.ovr = false → t.ovr = true →
      s.busy = true ∧ ∃ (a : BitVec 16) (v : Word) (rest : List BusOp),
        s.inbox = .write .word a v :: rest ∧ Loc.ofOffset a ≠ .status) ∧
    (s.ovr = true → t.ovr = false →
      (∃ (a : BitVec 16) (v : Word) (rest : List BusOp),
        s.inbox = .write .word a v :: rest ∧ Loc.ofOffset a = .status ∧ v.getLsbD 3 = true) ∨
      (∃ rest : List BusOp, s.inbox = .rst false :: rest ∧ s.rst = true))

/-- A step that leaves the command pending changes none of its operands: only OVR, the read data, the host's list, the draws and
the command's wait may differ, and the command word is the same (R51, R83). -/
def Obligations.OperandsAreFrozenWhileBusy : Prop :=
  ∀ (s t : State) (p q : Pending), step s = .next t → s.pending = some p → t.pending = some q →
    q.word = p.word ∧
    t = { s with ovr := t.ovr, rdata := t.rdata, inbox := t.inbox, draws := t.draws, pending := t.pending }

/-- Idle, the block keeps all its state, and nothing makes a command pending but a write to CMD of that word (R266). -/
def Obligations.OnlyCmdWriteWakes : Prop :=
  (∀ s : State, s.inbox = [] → s.busy = false → step s = .next s) ∧
  (∀ (s t : State) (p : Pending), step s = .next t → s.busy = false → t.pending = some p →
    ∃ (a : BitVec 16) (rest : List BusOp), s.inbox = .write .word a p.word :: rest ∧ Loc.ofOffset a = .cmd)

/-! ### Reset (10_state.md R53, 70_reset_and_hazards.md) -/

/-- What the registers hold and a host read returns after any reset, whatever M, E, RHS and G hold: ID, CFG and zeros, BUSY = 0, rst
deasserted (R53, R280, R282). That State.reset has no host event to come, 0 as read data and draw 0 for its storage is the model's
choice (logs 2, 7, 8). -/
def Obligations.ResetRegisterValues : Prop :=
  ∀ (d : Nat) (l : List BusOp) (v : Word),
    let s := State.resetWith d l v
    s.peek .id = 0x47463201 ∧ s.peek .cfg = 0x10400100 ∧ s.peek .status = 0 ∧ s.peek .arg = 0 ∧ s.peek .nrows = 0 ∧
    s.peek .ngap = 0 ∧ s.peek .rankCol = 0 ∧ (∀ k : Fin 4, s.peek (.gen k) = 0) ∧ s.peek .out = 0 ∧ s.pending = none ∧
    s.rst = false ∧ State.reset = State.resetWith 0 [] 0 ∧
    s.ReadsAs 0x0000 0x47463201 ∧ s.ReadsAs 0x0004 0x10400100 ∧
    ∀ a ∈ [0x0008, 0x000C, 0x0010, 0x0014, 0x0018, 0x001C, 0x0020, 0x0024, 0x0028, 0x002C, 0x0030], s.ReadsAs a 0

/-- Asserting rst abandons the pending command; while rst is asserted a write has no effect and a read is free; deasserting it
leaves the reset state, whatever was there before (R280, R281). Of this the following is the model's reading: that the assertion
keeps every register until rst is deasserted, and that a read under rst is free also of ID, CFG and STATUS, by R280 against R32, R33
and R34 (log 6); that a reset keeps the read data (log 7), the host's list (log 2) and the draw counter (log 8). -/
def Obligations.RstAbandonsAndRestores : Prop :=
  ∀ (s : State) (a : BitVec 16) (v : Word), a.toNat % 4 = 0 →
    busEvent (.rst true) s = .next { s with rst := true, pending := none } ∧
    (s.rst = true →
      busEvent (.write .word a v) s = .next s ∧
      busEvent (.read .word a) s = .next { s with rdata := Config.freeRead s.draws, draws := s.draws + 1 } ∧
      busEvent (.rst false) s = .next (State.resetWith s.draws s.inbox s.rdata))

/-! ### Whole-machine rules -/

/-- The reset state meets the invariant (R50, R53). -/
def Obligations.ResetMeetsInvariant : Prop := State.reset.Inv

/-- Every step keeps the invariant, from every state that meets it: ERR stays one of 0..3, RANKCOL at most 128, INCON = 1 only with
RANKCOL = 128, SINGULAR only with RANKCOL < 128 and INCON = 0, and no command is pending under rst (R41, R48, R50, R224, R281). -/
def Obligations.StepKeepsInvariant : Prop :=
  ∀ s t : State, s.Inv → step s = .next t → t.Inv

/-- From a state that meets the invariant, with a host that issues only supported accesses, every step answers a next state that
is again such: no command stops the block (R19, R255). -/
def Obligations.SupportedHostNeverStops : Prop :=
  ∀ s : State, s.Inv → s.hostSupported = true → ∃ t, step s = .next t ∧ t.Inv ∧ t.hostSupported = true

/-- A pending command is over after at most one step more than its wait, whatever the supported host does meanwhile: it is taken, or
an assertion of rst abandons it. Where no assertion of rst is to come it is taken: after at most its wait the step is the engine's
transition for its word, at a state whose operands are those it had (R51, R83, R281, R288). Counting LATENCY in host events is the
model's choice (log 3). -/
def Obligations.PendingCommandIsTaken : Prop :=
  ∀ (s : State) (p : Pending), s.Inv → s.hostSupported = true → s.pending = some p →
    (∃ k ≤ p.wait + 1, ∃ t : State, Host.Core.run core k s = .next t ∧ t.busy = false) ∧
    (BusOp.rst true ∉ s.inbox → ∃ k ≤ p.wait, ∃ u : State, Host.Core.run core k s = .next u ∧
      step u = engineStep p.word u ∧
      u = { s with ovr := u.ovr, rdata := u.rdata, inbox := u.inbox, draws := u.draws, pending := u.pending })

/-- A STATUS read in a state whose ERR holds a code the block never produces faults (R50, U5; the model's choice of where, log 10). -/
def Obligations.ReservedErrCodeFaults : Prop :=
  ∀ s : State, s.rst = false → 3 < s.err.toNat → busEvent (.read .word 0x0008) s = .fault .reservedErrCode

/-! ### The address map and the poll (20_memory.md, 30_encoding.md R113) -/

/-- While BUSY = 0, what a host read of each register and window word returns and what a host write of v to it leaves, by its byte
offset. The word at 0x1000 + 16·r + 4·k holds columns 32·k .. 32·k+31 of E[r], column 32·k + j at bit 31 − j; that at
0x8000 + 0x800·m + 16·r + 4·k the same of row r of M[m]; that at 0x2000 + 4·i the bits RHS[32·i + j] at bit 31 − j; that at
0x3000 + 4·i is G[i]. A write changes those bits and nothing else (R32, R33, R35–R41, R72–R77). -/
def Obligations.AddressMapAndBitOrder : Prop :=
  ∀ (s : State) (v : Word), s.rst = false → s.busy = false →
    (s.ReadsAs 0x0000 0x47463201 ∧ s.ReadsAs 0x0004 0x10400100 ∧ s.ReadsAs 0x000C 0 ∧ s.ReadsAs 0x0010 s.arg ∧
      s.ReadsAs 0x0014 (s.nrows.setWidth 32) ∧ s.ReadsAs 0x0018 (s.ngap.setWidth 32) ∧
      s.ReadsAs 0x001C (s.rankCol.setWidth 32) ∧ s.ReadsAs 0x0020 s.gen.s0 ∧ s.ReadsAs 0x0024 s.gen.s1 ∧
      s.ReadsAs 0x0028 s.gen.s2 ∧ s.ReadsAs 0x002C s.gen.s3 ∧ s.ReadsAs 0x0030 s.out) ∧
    (s.WriteLeaves 0x0000 v s ∧ s.WriteLeaves 0x0004 v s ∧ s.WriteLeaves 0x0010 v { s with arg := v } ∧
      s.WriteLeaves 0x0014 v { s with nrows := v.extractLsb' 0 16 } ∧
      s.WriteLeaves 0x0018 v { s with ngap := v.extractLsb' 0 16 } ∧ s.WriteLeaves 0x001C v s ∧
      s.WriteLeaves 0x0020 v { s with gen := { s.gen with s0 := v } } ∧
      s.WriteLeaves 0x0024 v { s with gen := { s.gen with s1 := v } } ∧
      s.WriteLeaves 0x0028 v { s with gen := { s.gen with s2 := v } } ∧
      s.WriteLeaves 0x002C v { s with gen := { s.gen with s3 := v } } ∧ s.WriteLeaves 0x0030 v s) ∧
    (∀ r < 256, ∀ k < 4,
      (∃ w, s.ReadsAs (0x1000 + 16 * r + 4 * k) w ∧
        ∀ j < 32, w.getLsbD (31 - j) = (s.eqn r).getMsbD (32 * k + j)) ∧
      ∃ E, s.WriteLeaves (0x1000 + 16 * r + 4 * k) v { s with eqns := E } ∧
        ∀ q < 256, ∀ c < 128, (E[q]?.getD 0).getMsbD c =
          if q = r ∧ c / 32 = k then v.getLsbD (31 - c % 32) else (s.eqn q).getMsbD c) ∧
    (∀ i < 8,
      (∃ w, s.ReadsAs (0x2000 + 4 * i) w ∧ ∀ j < 32, w.getLsbD (31 - j) = s.rhsBit (32 * i + j)) ∧
      ∃ b, s.WriteLeaves (0x2000 + 4 * i) v { s with rhs := b } ∧
        ∀ q < 256, b[q]?.getD false = if q / 32 = i then v.getLsbD (31 - q % 32) else s.rhsBit q) ∧
    (∀ i < 64,
      (∃ w, s.ReadsAs (0x3000 + 4 * i) w ∧ s.gaps[i]? = some w) ∧
      ∃ G, s.WriteLeaves (0x3000 + 4 * i) v { s with gaps := G } ∧
        ∀ q < 64, G[q]? = if q = i then some v else s.gaps[q]?) ∧
    (∀ (m : MatReg), ∀ r < 128, ∀ k < 4,
      (∃ w, s.ReadsAs (0x8000 + 0x800 * m.val + 16 * r + 4 * k) w ∧
        ∀ j < 32, w.getLsbD (31 - j) = (s.mat m).bit r (32 * k + j)) ∧
      ∃ A, s.WriteLeaves (0x8000 + 0x800 * m.val + 16 * r + 4 * k) v { s with mats := s.mats.set m.val A } ∧
        ∀ q < 128, ∀ c < 128, A.bit q c =
          if q = r ∧ c / 32 = k then v.getLsbD (31 - c % 32) else (s.mat m).bit q c)

/-- A poll is a read of STATUS that stays at the head of the host's list exactly while bit 0 of what it read is 1: outside rst that is
while BUSY = 1. Where the read faults, so does the poll (R84, R113). That it is one operation, a step to each read, is the model's
choice (log 13). -/
def Obligations.PollReadsStatusWhileBusy : Prop :=
  (∀ s t : State, busEvent (.read .word 0x0008) s = .next t →
    busEvent .poll s = .next (if t.rdata.getLsbD 0 then { t with inbox := .poll :: t.inbox } else t)) ∧
  (∀ (s : State) (r : Fault), busEvent (.read .word 0x0008) s = .fault r → busEvent .poll s = .fault r) ∧
  (∀ s : State, s.rst = false → s.err.toNat ≤ 3 →
    (s.busy = true → busEvent .poll s = .next { s with rdata := s.statusWord, inbox := .poll :: s.inbox }) ∧
    (s.busy = false → busEvent .poll s = .next { s with rdata := s.statusWord }))
end

