-- ==== Sys2Proof/Laws/Bits.lean ====
section
/-! SUPPORT. XOR sums, vectors made from their positions, and the words of a row: what each position holds. -/

namespace Sys2Proof

/-! ### XOR sums -/

theorem xorBits_congr {n : Nat} {f g : Nat → Bool} (h : ∀ k < n, f k = g k) : xorBits n f = xorBits n g := by
  induction n with
  | zero => rfl
  | succ n ih => simp only [xorBits]; rw [ih fun k hk => h k (by omega), h n (by omega)]

@[simp] theorem xorBits_false (n : Nat) : xorBits n (fun _ => false) = false := by
  induction n with
  | zero => rfl
  | succ n ih => simp [xorBits, ih]

theorem xorBits_xor (n : Nat) (f g : Nat → Bool) :
    xorBits n (fun k => f k ^^ g k) = (xorBits n f ^^ xorBits n g) := by
  induction n with
  | zero => rfl
  | succ n ih =>
    simp only [xorBits, ih]
    cases xorBits n f <;> cases xorBits n g <;> cases f n <;> cases g n <;> rfl

theorem xorBits_and_left (n : Nat) (b : Bool) (f : Nat → Bool) :
    xorBits n (fun k => b && f k) = (b && xorBits n f) := by
  cases b <;> simp

theorem xorBits_and_right (n : Nat) (b : Bool) (f : Nat → Bool) :
    xorBits n (fun k => f k && b) = (xorBits n f && b) := by
  cases b <;> simp

/-- A sum with one possible term. -/
theorem xorBits_single (n a : Nat) (f : Nat → Bool) :
    xorBits n (fun k => decide (k = a) && f k) = (decide (a < n) && f a) := by
  induction n with
  | zero => simp [xorBits]
  | succ n ih =>
    simp only [xorBits, ih]
    by_cases h : n = a
    · subst h; simp
    · have : (a < n + 1) = (a < n) := by simp; omega
      simp [h, this]

/-- Sums may be exchanged. -/
theorem xorBits_comm (n m : Nat) (f : Nat → Nat → Bool) :
    xorBits n (fun i => xorBits m (f i)) = xorBits m (fun j => xorBits n fun i => f i j) := by
  induction n with
  | zero => simp [xorBits]
  | succ n ih => simp only [xorBits, ih, xorBits_xor]

theorem getMsbD_xorVecs {m : Nat} (n : Nat) (f : Nat → BitVec m) (c : Nat) :
    (xorVecs n f).getMsbD c = xorBits n fun k => (f k).getMsbD c := by
  induction n with
  | zero => simp [xorVecs, xorBits]
  | succ n ih => simp [xorVecs, xorBits, ih]

/-! ### Vectors from positions -/

@[simp] theorem getMsbD_bitsOf (n : Nat) (f : Nat → Bool) (p : Nat) :
    (bitsOf n f).getMsbD p = (decide (p < n) && f p) := by
  induction n with
  | zero => simp
  | succ n ih =>
    rw [bitsOf, BitVec.getMsbD_concat, ih]
    by_cases h : p < n
    · have : p < n + 1 := by omega
      simp [h, this]
    · by_cases h' : p = n
      · subst h'; simp
      · have : ¬ p < n + 1 := by omega
        simp [h, h', this]

theorem bitsOf_getMsbD {n : Nat} (v : BitVec n) : bitsOf n v.getMsbD = v := by
  apply BitVec.eq_of_getMsbD_eq
  intro i hi
  simp [hi]

theorem bitsOf_congr {n : Nat} {f g : Nat → Bool} (h : ∀ p < n, f p = g p) : bitsOf n f = bitsOf n g := by
  apply BitVec.eq_of_getMsbD_eq
  intro i hi
  simp [hi, h i hi]

/-! ### Words of a row -/

theorem getMsbD_rowWord (row : Row) {k j : Nat} (hk : k < 4) (hj : j < 32) :
    (rowWord row k).getMsbD j = row.getMsbD (32 * k + j) := by
  simp only [rowWord, BitVec.getMsbD_extractLsb']
  have h1 : 96 - 32 * k + 32 - j ≤ 128 := by omega
  have h2 : 128 - (96 - 32 * k + 32 - j) = 32 * k + j := by omega
  simp [hj, h1, h2]

theorem getMsbD_rowOfWords (f : Nat → Word) {p : Nat} (hp : p < 128) :
    (rowOfWords f).getMsbD p = (f (p / 32)).getMsbD (p % 32) := by
  have h : p / 32 = 0 ∨ p / 32 = 1 ∨ p / 32 = 2 ∨ p / 32 = 3 := by omega
  simp only [rowOfWords, BitVec.getMsbD_append]
  rcases h with h | h | h | h <;> rw [h]
  · rw [if_neg (by omega), if_neg (by omega), if_neg (by omega)]; congr 1; omega
  · rw [if_neg (by omega), if_neg (by omega), if_pos (by omega)]; congr 1; omega
  · rw [if_neg (by omega), if_pos (by omega)]; congr 1; omega
  · rw [if_pos (by omega)]; congr 1; omega

@[simp] theorem rowWord_rowOfWords (f : Nat → Word) {k : Nat} (hk : k < 4) : rowWord (rowOfWords f) k = f k := by
  apply BitVec.eq_of_getMsbD_eq
  intro j hj
  rw [getMsbD_rowWord _ hk hj, getMsbD_rowOfWords _ (by omega)]
  congr 1
  · congr 1; omega
  · omega

theorem rowOfWords_rowWord (row : Row) : rowOfWords (rowWord row) = row := by
  apply BitVec.eq_of_getMsbD_eq
  intro p hp
  rw [getMsbD_rowOfWords _ hp, getMsbD_rowWord _ (by omega) (by omega)]
  congr 1; omega

theorem rowOfWords_congr {f g : Nat → Word} (h : ∀ k < 4, f k = g k) : rowOfWords f = rowOfWords g := by
  simp [rowOfWords, h 0, h 1, h 2, h 3]

/-- Two rows with equal words are equal. -/
theorem Row.ext_words {a b : Row} (h : ∀ k < 4, rowWord a k = rowWord b k) : a = b := by
  rw [← rowOfWords_rowWord a, ← rowOfWords_rowWord b, rowOfWords_congr h]

theorem rowWord_setRowWord (row : Row) (k : Nat) (w : Word) {j : Nat} (hj : j < 4) :
    rowWord (setRowWord row k w) j = if j = k then w else rowWord row j := by
  simp [setRowWord, hj]

/-- What each position of a row with one word replaced holds. -/
theorem getMsbD_setRowWord (row : Row) (k : Nat) (w : Word) {p : Nat} (hp : p < 128) :
    (setRowWord row k w).getMsbD p = if p / 32 = k then w.getMsbD (p % 32) else row.getMsbD p := by
  rw [setRowWord, getMsbD_rowOfWords _ hp]
  by_cases h : p / 32 = k
  · simp [h]
  · rw [if_neg h, if_neg h, getMsbD_rowWord _ (by omega) (by omega)]
    congr 1; omega

/-! ### The vector of a generator state -/

@[simp] theorem unvec_vec (g : GenState) : unvec g.vec = g := by
  cases g
  simp [unvec, GenState.vec, GenState.word]

@[simp] theorem vec_unvec (v : Row) : (unvec v).vec = v := by
  apply Row.ext_words
  intro k hk
  rw [GenState.vec, rowWord_rowOfWords _ hk]
  have h : k = 0 ∨ k = 1 ∨ k = 2 ∨ k = 3 := by omega
  rcases h with rfl | rfl | rfl | rfl <;> rfl

/-- Position p of vec(s) is bit 31 − (p mod 32) of word p div 32 (R12). -/
theorem getMsbD_vec (g : GenState) {p : Nat} (hp : p < 128) :
    g.vec.getMsbD p = (g.word (p / 32)).getLsbD (31 - p % 32) := by
  rw [GenState.vec, getMsbD_rowOfWords _ hp, BitVec.getMsbD_eq_getLsbD]
  have h : p % 32 < 32 := by omega
  simp only [h, decide_true, Bool.true_and]

theorem vec_injective {g h : GenState} (e : g.vec = h.vec) : g = h := by
  rw [← unvec_vec g, ← unvec_vec h, e]

theorem vec_add (a b : GenState) : (a.add b).vec = a.vec ^^^ b.vec := by
  apply BitVec.eq_of_getMsbD_eq
  intro p hp
  have h : p / 32 = 0 ∨ p / 32 = 1 ∨ p / 32 = 2 ∨ p / 32 = 3 := by omega
  rw [BitVec.getMsbD_xor]
  simp only [GenState.vec, getMsbD_rowOfWords _ hp]
  rcases h with h | h | h | h <;> rw [h] <;> simp [GenState.word, GenState.add]

end Sys2Proof
end

