-- ==== Sys2Proof/Laws/State.lean ====
section
/-! SUPPORT. What each update of the state leaves in each field: one lemma per field per update, true by rfl. -/

namespace Sys2Proof.Machine

variable (s : State)

@[simp] theorem State.complete_eqFlag (c : ErrCode) : (s.complete c).eqFlag = s.eqFlag := rfl
@[simp] theorem State.complete_incon (c : ErrCode) : (s.complete c).incon = s.incon := rfl
@[simp] theorem State.complete_ovr (c : ErrCode) : (s.complete c).ovr = s.ovr := rfl
@[simp] theorem State.complete_err (c : ErrCode) : (s.complete c).err = c.bits := rfl
@[simp] theorem State.complete_arg (c : ErrCode) : (s.complete c).arg = s.arg := rfl
@[simp] theorem State.complete_nrows (c : ErrCode) : (s.complete c).nrows = s.nrows := rfl
@[simp] theorem State.complete_ngap (c : ErrCode) : (s.complete c).ngap = s.ngap := rfl
@[simp] theorem State.complete_rankCol (c : ErrCode) : (s.complete c).rankCol = s.rankCol := rfl
@[simp] theorem State.complete_gen (c : ErrCode) : (s.complete c).gen = s.gen := rfl
@[simp] theorem State.complete_out (c : ErrCode) : (s.complete c).out = s.out := rfl
@[simp] theorem State.complete_mats (c : ErrCode) : (s.complete c).mats = s.mats := rfl
@[simp] theorem State.complete_eqns (c : ErrCode) : (s.complete c).eqns = s.eqns := rfl
@[simp] theorem State.complete_rhs (c : ErrCode) : (s.complete c).rhs = s.rhs := rfl
@[simp] theorem State.complete_gaps (c : ErrCode) : (s.complete c).gaps = s.gaps := rfl
@[simp] theorem State.complete_pending (c : ErrCode) : (s.complete c).pending = none := rfl
@[simp] theorem State.complete_rst (c : ErrCode) : (s.complete c).rst = s.rst := rfl
@[simp] theorem State.complete_rdata (c : ErrCode) : (s.complete c).rdata = s.rdata := rfl
@[simp] theorem State.complete_inbox (c : ErrCode) : (s.complete c).inbox = s.inbox := rfl
@[simp] theorem State.complete_draws (c : ErrCode) : (s.complete c).draws = s.draws := rfl

@[simp] theorem State.setEq_eqFlag (b : Bool) : (s.setEq b).eqFlag = b := rfl
@[simp] theorem State.setEq_incon (b : Bool) : (s.setEq b).incon = s.incon := rfl
@[simp] theorem State.setEq_ovr (b : Bool) : (s.setEq b).ovr = s.ovr := rfl
@[simp] theorem State.setEq_err (b : Bool) : (s.setEq b).err = s.err := rfl
@[simp] theorem State.setEq_arg (b : Bool) : (s.setEq b).arg = s.arg := rfl
@[simp] theorem State.setEq_nrows (b : Bool) : (s.setEq b).nrows = s.nrows := rfl
@[simp] theorem State.setEq_ngap (b : Bool) : (s.setEq b).ngap = s.ngap := rfl
@[simp] theorem State.setEq_rankCol (b : Bool) : (s.setEq b).rankCol = s.rankCol := rfl
@[simp] theorem State.setEq_gen (b : Bool) : (s.setEq b).gen = s.gen := rfl
@[simp] theorem State.setEq_out (b : Bool) : (s.setEq b).out = s.out := rfl
@[simp] theorem State.setEq_mats (b : Bool) : (s.setEq b).mats = s.mats := rfl
@[simp] theorem State.setEq_eqns (b : Bool) : (s.setEq b).eqns = s.eqns := rfl
@[simp] theorem State.setEq_rhs (b : Bool) : (s.setEq b).rhs = s.rhs := rfl
@[simp] theorem State.setEq_gaps (b : Bool) : (s.setEq b).gaps = s.gaps := rfl
@[simp] theorem State.setEq_pending (b : Bool) : (s.setEq b).pending = s.pending := rfl
@[simp] theorem State.setEq_rst (b : Bool) : (s.setEq b).rst = s.rst := rfl
@[simp] theorem State.setEq_rdata (b : Bool) : (s.setEq b).rdata = s.rdata := rfl
@[simp] theorem State.setEq_inbox (b : Bool) : (s.setEq b).inbox = s.inbox := rfl
@[simp] theorem State.setEq_draws (b : Bool) : (s.setEq b).draws = s.draws := rfl

@[simp] theorem State.setIncon_eqFlag (b : Bool) : (s.setIncon b).eqFlag = s.eqFlag := rfl
@[simp] theorem State.setIncon_incon (b : Bool) : (s.setIncon b).incon = b := rfl
@[simp] theorem State.setIncon_ovr (b : Bool) : (s.setIncon b).ovr = s.ovr := rfl
@[simp] theorem State.setIncon_err (b : Bool) : (s.setIncon b).err = s.err := rfl
@[simp] theorem State.setIncon_arg (b : Bool) : (s.setIncon b).arg = s.arg := rfl
@[simp] theorem State.setIncon_nrows (b : Bool) : (s.setIncon b).nrows = s.nrows := rfl
@[simp] theorem State.setIncon_ngap (b : Bool) : (s.setIncon b).ngap = s.ngap := rfl
@[simp] theorem State.setIncon_rankCol (b : Bool) : (s.setIncon b).rankCol = s.rankCol := rfl
@[simp] theorem State.setIncon_gen (b : Bool) : (s.setIncon b).gen = s.gen := rfl
@[simp] theorem State.setIncon_out (b : Bool) : (s.setIncon b).out = s.out := rfl
@[simp] theorem State.setIncon_mats (b : Bool) : (s.setIncon b).mats = s.mats := rfl
@[simp] theorem State.setIncon_eqns (b : Bool) : (s.setIncon b).eqns = s.eqns := rfl
@[simp] theorem State.setIncon_rhs (b : Bool) : (s.setIncon b).rhs = s.rhs := rfl
@[simp] theorem State.setIncon_gaps (b : Bool) : (s.setIncon b).gaps = s.gaps := rfl
@[simp] theorem State.setIncon_pending (b : Bool) : (s.setIncon b).pending = s.pending := rfl
@[simp] theorem State.setIncon_rst (b : Bool) : (s.setIncon b).rst = s.rst := rfl
@[simp] theorem State.setIncon_rdata (b : Bool) : (s.setIncon b).rdata = s.rdata := rfl
@[simp] theorem State.setIncon_inbox (b : Bool) : (s.setIncon b).inbox = s.inbox := rfl
@[simp] theorem State.setIncon_draws (b : Bool) : (s.setIncon b).draws = s.draws := rfl

@[simp] theorem State.setOvr_eqFlag (b : Bool) : (s.setOvr b).eqFlag = s.eqFlag := rfl
@[simp] theorem State.setOvr_incon (b : Bool) : (s.setOvr b).incon = s.incon := rfl
@[simp] theorem State.setOvr_ovr (b : Bool) : (s.setOvr b).ovr = b := rfl
@[simp] theorem State.setOvr_err (b : Bool) : (s.setOvr b).err = s.err := rfl
@[simp] theorem State.setOvr_arg (b : Bool) : (s.setOvr b).arg = s.arg := rfl
@[simp] theorem State.setOvr_nrows (b : Bool) : (s.setOvr b).nrows = s.nrows := rfl
@[simp] theorem State.setOvr_ngap (b : Bool) : (s.setOvr b).ngap = s.ngap := rfl
@[simp] theorem State.setOvr_rankCol (b : Bool) : (s.setOvr b).rankCol = s.rankCol := rfl
@[simp] theorem State.setOvr_gen (b : Bool) : (s.setOvr b).gen = s.gen := rfl
@[simp] theorem State.setOvr_out (b : Bool) : (s.setOvr b).out = s.out := rfl
@[simp] theorem State.setOvr_mats (b : Bool) : (s.setOvr b).mats = s.mats := rfl
@[simp] theorem State.setOvr_eqns (b : Bool) : (s.setOvr b).eqns = s.eqns := rfl
@[simp] theorem State.setOvr_rhs (b : Bool) : (s.setOvr b).rhs = s.rhs := rfl
@[simp] theorem State.setOvr_gaps (b : Bool) : (s.setOvr b).gaps = s.gaps := rfl
@[simp] theorem State.setOvr_pending (b : Bool) : (s.setOvr b).pending = s.pending := rfl
@[simp] theorem State.setOvr_rst (b : Bool) : (s.setOvr b).rst = s.rst := rfl
@[simp] theorem State.setOvr_rdata (b : Bool) : (s.setOvr b).rdata = s.rdata := rfl
@[simp] theorem State.setOvr_inbox (b : Bool) : (s.setOvr b).inbox = s.inbox := rfl
@[simp] theorem State.setOvr_draws (b : Bool) : (s.setOvr b).draws = s.draws := rfl

@[simp] theorem State.setArg_eqFlag (v : Word) : (s.setArg v).eqFlag = s.eqFlag := rfl
@[simp] theorem State.setArg_incon (v : Word) : (s.setArg v).incon = s.incon := rfl
@[simp] theorem State.setArg_ovr (v : Word) : (s.setArg v).ovr = s.ovr := rfl
@[simp] theorem State.setArg_err (v : Word) : (s.setArg v).err = s.err := rfl
@[simp] theorem State.setArg_arg (v : Word) : (s.setArg v).arg = v := rfl
@[simp] theorem State.setArg_nrows (v : Word) : (s.setArg v).nrows = s.nrows := rfl
@[simp] theorem State.setArg_ngap (v : Word) : (s.setArg v).ngap = s.ngap := rfl
@[simp] theorem State.setArg_rankCol (v : Word) : (s.setArg v).rankCol = s.rankCol := rfl
@[simp] theorem State.setArg_gen (v : Word) : (s.setArg v).gen = s.gen := rfl
@[simp] theorem State.setArg_out (v : Word) : (s.setArg v).out = s.out := rfl
@[simp] theorem State.setArg_mats (v : Word) : (s.setArg v).mats = s.mats := rfl
@[simp] theorem State.setArg_eqns (v : Word) : (s.setArg v).eqns = s.eqns := rfl
@[simp] theorem State.setArg_rhs (v : Word) : (s.setArg v).rhs = s.rhs := rfl
@[simp] theorem State.setArg_gaps (v : Word) : (s.setArg v).gaps = s.gaps := rfl
@[simp] theorem State.setArg_pending (v : Word) : (s.setArg v).pending = s.pending := rfl
@[simp] theorem State.setArg_rst (v : Word) : (s.setArg v).rst = s.rst := rfl
@[simp] theorem State.setArg_rdata (v : Word) : (s.setArg v).rdata = s.rdata := rfl
@[simp] theorem State.setArg_inbox (v : Word) : (s.setArg v).inbox = s.inbox := rfl
@[simp] theorem State.setArg_draws (v : Word) : (s.setArg v).draws = s.draws := rfl

@[simp] theorem State.setNrows_eqFlag (v : BitVec 16) : (s.setNrows v).eqFlag = s.eqFlag := rfl
@[simp] theorem State.setNrows_incon (v : BitVec 16) : (s.setNrows v).incon = s.incon := rfl
@[simp] theorem State.setNrows_ovr (v : BitVec 16) : (s.setNrows v).ovr = s.ovr := rfl
@[simp] theorem State.setNrows_err (v : BitVec 16) : (s.setNrows v).err = s.err := rfl
@[simp] theorem State.setNrows_arg (v : BitVec 16) : (s.setNrows v).arg = s.arg := rfl
@[simp] theorem State.setNrows_nrows (v : BitVec 16) : (s.setNrows v).nrows = v := rfl
@[simp] theorem State.setNrows_ngap (v : BitVec 16) : (s.setNrows v).ngap = s.ngap := rfl
@[simp] theorem State.setNrows_rankCol (v : BitVec 16) : (s.setNrows v).rankCol = s.rankCol := rfl
@[simp] theorem State.setNrows_gen (v : BitVec 16) : (s.setNrows v).gen = s.gen := rfl
@[simp] theorem State.setNrows_out (v : BitVec 16) : (s.setNrows v).out = s.out := rfl
@[simp] theorem State.setNrows_mats (v : BitVec 16) : (s.setNrows v).mats = s.mats := rfl
@[simp] theorem State.setNrows_eqns (v : BitVec 16) : (s.setNrows v).eqns = s.eqns := rfl
@[simp] theorem State.setNrows_rhs (v : BitVec 16) : (s.setNrows v).rhs = s.rhs := rfl
@[simp] theorem State.setNrows_gaps (v : BitVec 16) : (s.setNrows v).gaps = s.gaps := rfl
@[simp] theorem State.setNrows_pending (v : BitVec 16) : (s.setNrows v).pending = s.pending := rfl
@[simp] theorem State.setNrows_rst (v : BitVec 16) : (s.setNrows v).rst = s.rst := rfl
@[simp] theorem State.setNrows_rdata (v : BitVec 16) : (s.setNrows v).rdata = s.rdata := rfl
@[simp] theorem State.setNrows_inbox (v : BitVec 16) : (s.setNrows v).inbox = s.inbox := rfl
@[simp] theorem State.setNrows_draws (v : BitVec 16) : (s.setNrows v).draws = s.draws := rfl

@[simp] theorem State.setNgap_eqFlag (v : BitVec 16) : (s.setNgap v).eqFlag = s.eqFlag := rfl
@[simp] theorem State.setNgap_incon (v : BitVec 16) : (s.setNgap v).incon = s.incon := rfl
@[simp] theorem State.setNgap_ovr (v : BitVec 16) : (s.setNgap v).ovr = s.ovr := rfl
@[simp] theorem State.setNgap_err (v : BitVec 16) : (s.setNgap v).err = s.err := rfl
@[simp] theorem State.setNgap_arg (v : BitVec 16) : (s.setNgap v).arg = s.arg := rfl
@[simp] theorem State.setNgap_nrows (v : BitVec 16) : (s.setNgap v).nrows = s.nrows := rfl
@[simp] theorem State.setNgap_ngap (v : BitVec 16) : (s.setNgap v).ngap = v := rfl
@[simp] theorem State.setNgap_rankCol (v : BitVec 16) : (s.setNgap v).rankCol = s.rankCol := rfl
@[simp] theorem State.setNgap_gen (v : BitVec 16) : (s.setNgap v).gen = s.gen := rfl
@[simp] theorem State.setNgap_out (v : BitVec 16) : (s.setNgap v).out = s.out := rfl
@[simp] theorem State.setNgap_mats (v : BitVec 16) : (s.setNgap v).mats = s.mats := rfl
@[simp] theorem State.setNgap_eqns (v : BitVec 16) : (s.setNgap v).eqns = s.eqns := rfl
@[simp] theorem State.setNgap_rhs (v : BitVec 16) : (s.setNgap v).rhs = s.rhs := rfl
@[simp] theorem State.setNgap_gaps (v : BitVec 16) : (s.setNgap v).gaps = s.gaps := rfl
@[simp] theorem State.setNgap_pending (v : BitVec 16) : (s.setNgap v).pending = s.pending := rfl
@[simp] theorem State.setNgap_rst (v : BitVec 16) : (s.setNgap v).rst = s.rst := rfl
@[simp] theorem State.setNgap_rdata (v : BitVec 16) : (s.setNgap v).rdata = s.rdata := rfl
@[simp] theorem State.setNgap_inbox (v : BitVec 16) : (s.setNgap v).inbox = s.inbox := rfl
@[simp] theorem State.setNgap_draws (v : BitVec 16) : (s.setNgap v).draws = s.draws := rfl

@[simp] theorem State.setRankCol_eqFlag (v : BitVec 8) : (s.setRankCol v).eqFlag = s.eqFlag := rfl
@[simp] theorem State.setRankCol_incon (v : BitVec 8) : (s.setRankCol v).incon = s.incon := rfl
@[simp] theorem State.setRankCol_ovr (v : BitVec 8) : (s.setRankCol v).ovr = s.ovr := rfl
@[simp] theorem State.setRankCol_err (v : BitVec 8) : (s.setRankCol v).err = s.err := rfl
@[simp] theorem State.setRankCol_arg (v : BitVec 8) : (s.setRankCol v).arg = s.arg := rfl
@[simp] theorem State.setRankCol_nrows (v : BitVec 8) : (s.setRankCol v).nrows = s.nrows := rfl
@[simp] theorem State.setRankCol_ngap (v : BitVec 8) : (s.setRankCol v).ngap = s.ngap := rfl
@[simp] theorem State.setRankCol_rankCol (v : BitVec 8) : (s.setRankCol v).rankCol = v := rfl
@[simp] theorem State.setRankCol_gen (v : BitVec 8) : (s.setRankCol v).gen = s.gen := rfl
@[simp] theorem State.setRankCol_out (v : BitVec 8) : (s.setRankCol v).out = s.out := rfl
@[simp] theorem State.setRankCol_mats (v : BitVec 8) : (s.setRankCol v).mats = s.mats := rfl
@[simp] theorem State.setRankCol_eqns (v : BitVec 8) : (s.setRankCol v).eqns = s.eqns := rfl
@[simp] theorem State.setRankCol_rhs (v : BitVec 8) : (s.setRankCol v).rhs = s.rhs := rfl
@[simp] theorem State.setRankCol_gaps (v : BitVec 8) : (s.setRankCol v).gaps = s.gaps := rfl
@[simp] theorem State.setRankCol_pending (v : BitVec 8) : (s.setRankCol v).pending = s.pending := rfl
@[simp] theorem State.setRankCol_rst (v : BitVec 8) : (s.setRankCol v).rst = s.rst := rfl
@[simp] theorem State.setRankCol_rdata (v : BitVec 8) : (s.setRankCol v).rdata = s.rdata := rfl
@[simp] theorem State.setRankCol_inbox (v : BitVec 8) : (s.setRankCol v).inbox = s.inbox := rfl
@[simp] theorem State.setRankCol_draws (v : BitVec 8) : (s.setRankCol v).draws = s.draws := rfl

@[simp] theorem State.setGen_eqFlag (g : GenState) : (s.setGen g).eqFlag = s.eqFlag := rfl
@[simp] theorem State.setGen_incon (g : GenState) : (s.setGen g).incon = s.incon := rfl
@[simp] theorem State.setGen_ovr (g : GenState) : (s.setGen g).ovr = s.ovr := rfl
@[simp] theorem State.setGen_err (g : GenState) : (s.setGen g).err = s.err := rfl
@[simp] theorem State.setGen_arg (g : GenState) : (s.setGen g).arg = s.arg := rfl
@[simp] theorem State.setGen_nrows (g : GenState) : (s.setGen g).nrows = s.nrows := rfl
@[simp] theorem State.setGen_ngap (g : GenState) : (s.setGen g).ngap = s.ngap := rfl
@[simp] theorem State.setGen_rankCol (g : GenState) : (s.setGen g).rankCol = s.rankCol := rfl
@[simp] theorem State.setGen_gen (g : GenState) : (s.setGen g).gen = g := rfl
@[simp] theorem State.setGen_out (g : GenState) : (s.setGen g).out = s.out := rfl
@[simp] theorem State.setGen_mats (g : GenState) : (s.setGen g).mats = s.mats := rfl
@[simp] theorem State.setGen_eqns (g : GenState) : (s.setGen g).eqns = s.eqns := rfl
@[simp] theorem State.setGen_rhs (g : GenState) : (s.setGen g).rhs = s.rhs := rfl
@[simp] theorem State.setGen_gaps (g : GenState) : (s.setGen g).gaps = s.gaps := rfl
@[simp] theorem State.setGen_pending (g : GenState) : (s.setGen g).pending = s.pending := rfl
@[simp] theorem State.setGen_rst (g : GenState) : (s.setGen g).rst = s.rst := rfl
@[simp] theorem State.setGen_rdata (g : GenState) : (s.setGen g).rdata = s.rdata := rfl
@[simp] theorem State.setGen_inbox (g : GenState) : (s.setGen g).inbox = s.inbox := rfl
@[simp] theorem State.setGen_draws (g : GenState) : (s.setGen g).draws = s.draws := rfl

@[simp] theorem State.setOut_eqFlag (v : Word) : (s.setOut v).eqFlag = s.eqFlag := rfl
@[simp] theorem State.setOut_incon (v : Word) : (s.setOut v).incon = s.incon := rfl
@[simp] theorem State.setOut_ovr (v : Word) : (s.setOut v).ovr = s.ovr := rfl
@[simp] theorem State.setOut_err (v : Word) : (s.setOut v).err = s.err := rfl
@[simp] theorem State.setOut_arg (v : Word) : (s.setOut v).arg = s.arg := rfl
@[simp] theorem State.setOut_nrows (v : Word) : (s.setOut v).nrows = s.nrows := rfl
@[simp] theorem State.setOut_ngap (v : Word) : (s.setOut v).ngap = s.ngap := rfl
@[simp] theorem State.setOut_rankCol (v : Word) : (s.setOut v).rankCol = s.rankCol := rfl
@[simp] theorem State.setOut_gen (v : Word) : (s.setOut v).gen = s.gen := rfl
@[simp] theorem State.setOut_out (v : Word) : (s.setOut v).out = v := rfl
@[simp] theorem State.setOut_mats (v : Word) : (s.setOut v).mats = s.mats := rfl
@[simp] theorem State.setOut_eqns (v : Word) : (s.setOut v).eqns = s.eqns := rfl
@[simp] theorem State.setOut_rhs (v : Word) : (s.setOut v).rhs = s.rhs := rfl
@[simp] theorem State.setOut_gaps (v : Word) : (s.setOut v).gaps = s.gaps := rfl
@[simp] theorem State.setOut_pending (v : Word) : (s.setOut v).pending = s.pending := rfl
@[simp] theorem State.setOut_rst (v : Word) : (s.setOut v).rst = s.rst := rfl
@[simp] theorem State.setOut_rdata (v : Word) : (s.setOut v).rdata = s.rdata := rfl
@[simp] theorem State.setOut_inbox (v : Word) : (s.setOut v).inbox = s.inbox := rfl
@[simp] theorem State.setOut_draws (v : Word) : (s.setOut v).draws = s.draws := rfl

@[simp] theorem State.setMat_eqFlag (rd : MatReg) (A : Matrix) : (s.setMat rd A).eqFlag = s.eqFlag := rfl
@[simp] theorem State.setMat_incon (rd : MatReg) (A : Matrix) : (s.setMat rd A).incon = s.incon := rfl
@[simp] theorem State.setMat_ovr (rd : MatReg) (A : Matrix) : (s.setMat rd A).ovr = s.ovr := rfl
@[simp] theorem State.setMat_err (rd : MatReg) (A : Matrix) : (s.setMat rd A).err = s.err := rfl
@[simp] theorem State.setMat_arg (rd : MatReg) (A : Matrix) : (s.setMat rd A).arg = s.arg := rfl
@[simp] theorem State.setMat_nrows (rd : MatReg) (A : Matrix) : (s.setMat rd A).nrows = s.nrows := rfl
@[simp] theorem State.setMat_ngap (rd : MatReg) (A : Matrix) : (s.setMat rd A).ngap = s.ngap := rfl
@[simp] theorem State.setMat_rankCol (rd : MatReg) (A : Matrix) : (s.setMat rd A).rankCol = s.rankCol := rfl
@[simp] theorem State.setMat_gen (rd : MatReg) (A : Matrix) : (s.setMat rd A).gen = s.gen := rfl
@[simp] theorem State.setMat_out (rd : MatReg) (A : Matrix) : (s.setMat rd A).out = s.out := rfl
@[simp] theorem State.setMat_mats (rd : MatReg) (A : Matrix) : (s.setMat rd A).mats = s.mats.set rd.val A := rfl
@[simp] theorem State.setMat_eqns (rd : MatReg) (A : Matrix) : (s.setMat rd A).eqns = s.eqns := rfl
@[simp] theorem State.setMat_rhs (rd : MatReg) (A : Matrix) : (s.setMat rd A).rhs = s.rhs := rfl
@[simp] theorem State.setMat_gaps (rd : MatReg) (A : Matrix) : (s.setMat rd A).gaps = s.gaps := rfl
@[simp] theorem State.setMat_pending (rd : MatReg) (A : Matrix) : (s.setMat rd A).pending = s.pending := rfl
@[simp] theorem State.setMat_rst (rd : MatReg) (A : Matrix) : (s.setMat rd A).rst = s.rst := rfl
@[simp] theorem State.setMat_rdata (rd : MatReg) (A : Matrix) : (s.setMat rd A).rdata = s.rdata := rfl
@[simp] theorem State.setMat_inbox (rd : MatReg) (A : Matrix) : (s.setMat rd A).inbox = s.inbox := rfl
@[simp] theorem State.setMat_draws (rd : MatReg) (A : Matrix) : (s.setMat rd A).draws = s.draws := rfl

@[simp] theorem State.setEqns_eqFlag (E : Vector Row 256) : (s.setEqns E).eqFlag = s.eqFlag := rfl
@[simp] theorem State.setEqns_incon (E : Vector Row 256) : (s.setEqns E).incon = s.incon := rfl
@[simp] theorem State.setEqns_ovr (E : Vector Row 256) : (s.setEqns E).ovr = s.ovr := rfl
@[simp] theorem State.setEqns_err (E : Vector Row 256) : (s.setEqns E).err = s.err := rfl
@[simp] theorem State.setEqns_arg (E : Vector Row 256) : (s.setEqns E).arg = s.arg := rfl
@[simp] theorem State.setEqns_nrows (E : Vector Row 256) : (s.setEqns E).nrows = s.nrows := rfl
@[simp] theorem State.setEqns_ngap (E : Vector Row 256) : (s.setEqns E).ngap = s.ngap := rfl
@[simp] theorem State.setEqns_rankCol (E : Vector Row 256) : (s.setEqns E).rankCol = s.rankCol := rfl
@[simp] theorem State.setEqns_gen (E : Vector Row 256) : (s.setEqns E).gen = s.gen := rfl
@[simp] theorem State.setEqns_out (E : Vector Row 256) : (s.setEqns E).out = s.out := rfl
@[simp] theorem State.setEqns_mats (E : Vector Row 256) : (s.setEqns E).mats = s.mats := rfl
@[simp] theorem State.setEqns_eqns (E : Vector Row 256) : (s.setEqns E).eqns = E := rfl
@[simp] theorem State.setEqns_rhs (E : Vector Row 256) : (s.setEqns E).rhs = s.rhs := rfl
@[simp] theorem State.setEqns_gaps (E : Vector Row 256) : (s.setEqns E).gaps = s.gaps := rfl
@[simp] theorem State.setEqns_pending (E : Vector Row 256) : (s.setEqns E).pending = s.pending := rfl
@[simp] theorem State.setEqns_rst (E : Vector Row 256) : (s.setEqns E).rst = s.rst := rfl
@[simp] theorem State.setEqns_rdata (E : Vector Row 256) : (s.setEqns E).rdata = s.rdata := rfl
@[simp] theorem State.setEqns_inbox (E : Vector Row 256) : (s.setEqns E).inbox = s.inbox := rfl
@[simp] theorem State.setEqns_draws (E : Vector Row 256) : (s.setEqns E).draws = s.draws := rfl

@[simp] theorem State.setRhs_eqFlag (b : Vector Bool 256) : (s.setRhs b).eqFlag = s.eqFlag := rfl
@[simp] theorem State.setRhs_incon (b : Vector Bool 256) : (s.setRhs b).incon = s.incon := rfl
@[simp] theorem State.setRhs_ovr (b : Vector Bool 256) : (s.setRhs b).ovr = s.ovr := rfl
@[simp] theorem State.setRhs_err (b : Vector Bool 256) : (s.setRhs b).err = s.err := rfl
@[simp] theorem State.setRhs_arg (b : Vector Bool 256) : (s.setRhs b).arg = s.arg := rfl
@[simp] theorem State.setRhs_nrows (b : Vector Bool 256) : (s.setRhs b).nrows = s.nrows := rfl
@[simp] theorem State.setRhs_ngap (b : Vector Bool 256) : (s.setRhs b).ngap = s.ngap := rfl
@[simp] theorem State.setRhs_rankCol (b : Vector Bool 256) : (s.setRhs b).rankCol = s.rankCol := rfl
@[simp] theorem State.setRhs_gen (b : Vector Bool 256) : (s.setRhs b).gen = s.gen := rfl
@[simp] theorem State.setRhs_out (b : Vector Bool 256) : (s.setRhs b).out = s.out := rfl
@[simp] theorem State.setRhs_mats (b : Vector Bool 256) : (s.setRhs b).mats = s.mats := rfl
@[simp] theorem State.setRhs_eqns (b : Vector Bool 256) : (s.setRhs b).eqns = s.eqns := rfl
@[simp] theorem State.setRhs_rhs (b : Vector Bool 256) : (s.setRhs b).rhs = b := rfl
@[simp] theorem State.setRhs_gaps (b : Vector Bool 256) : (s.setRhs b).gaps = s.gaps := rfl
@[simp] theorem State.setRhs_pending (b : Vector Bool 256) : (s.setRhs b).pending = s.pending := rfl
@[simp] theorem State.setRhs_rst (b : Vector Bool 256) : (s.setRhs b).rst = s.rst := rfl
@[simp] theorem State.setRhs_rdata (b : Vector Bool 256) : (s.setRhs b).rdata = s.rdata := rfl
@[simp] theorem State.setRhs_inbox (b : Vector Bool 256) : (s.setRhs b).inbox = s.inbox := rfl
@[simp] theorem State.setRhs_draws (b : Vector Bool 256) : (s.setRhs b).draws = s.draws := rfl

@[simp] theorem State.setGaps_eqFlag (G : Vector Word 64) : (s.setGaps G).eqFlag = s.eqFlag := rfl
@[simp] theorem State.setGaps_incon (G : Vector Word 64) : (s.setGaps G).incon = s.incon := rfl
@[simp] theorem State.setGaps_ovr (G : Vector Word 64) : (s.setGaps G).ovr = s.ovr := rfl
@[simp] theorem State.setGaps_err (G : Vector Word 64) : (s.setGaps G).err = s.err := rfl
@[simp] theorem State.setGaps_arg (G : Vector Word 64) : (s.setGaps G).arg = s.arg := rfl
@[simp] theorem State.setGaps_nrows (G : Vector Word 64) : (s.setGaps G).nrows = s.nrows := rfl
@[simp] theorem State.setGaps_ngap (G : Vector Word 64) : (s.setGaps G).ngap = s.ngap := rfl
@[simp] theorem State.setGaps_rankCol (G : Vector Word 64) : (s.setGaps G).rankCol = s.rankCol := rfl
@[simp] theorem State.setGaps_gen (G : Vector Word 64) : (s.setGaps G).gen = s.gen := rfl
@[simp] theorem State.setGaps_out (G : Vector Word 64) : (s.setGaps G).out = s.out := rfl
@[simp] theorem State.setGaps_mats (G : Vector Word 64) : (s.setGaps G).mats = s.mats := rfl
@[simp] theorem State.setGaps_eqns (G : Vector Word 64) : (s.setGaps G).eqns = s.eqns := rfl
@[simp] theorem State.setGaps_rhs (G : Vector Word 64) : (s.setGaps G).rhs = s.rhs := rfl
@[simp] theorem State.setGaps_gaps (G : Vector Word 64) : (s.setGaps G).gaps = G := rfl
@[simp] theorem State.setGaps_pending (G : Vector Word 64) : (s.setGaps G).pending = s.pending := rfl
@[simp] theorem State.setGaps_rst (G : Vector Word 64) : (s.setGaps G).rst = s.rst := rfl
@[simp] theorem State.setGaps_rdata (G : Vector Word 64) : (s.setGaps G).rdata = s.rdata := rfl
@[simp] theorem State.setGaps_inbox (G : Vector Word 64) : (s.setGaps G).inbox = s.inbox := rfl
@[simp] theorem State.setGaps_draws (G : Vector Word 64) : (s.setGaps G).draws = s.draws := rfl

@[simp] theorem State.setPending_eqFlag (p : Option Pending) : (s.setPending p).eqFlag = s.eqFlag := rfl
@[simp] theorem State.setPending_incon (p : Option Pending) : (s.setPending p).incon = s.incon := rfl
@[simp] theorem State.setPending_ovr (p : Option Pending) : (s.setPending p).ovr = s.ovr := rfl
@[simp] theorem State.setPending_err (p : Option Pending) : (s.setPending p).err = s.err := rfl
@[simp] theorem State.setPending_arg (p : Option Pending) : (s.setPending p).arg = s.arg := rfl
@[simp] theorem State.setPending_nrows (p : Option Pending) : (s.setPending p).nrows = s.nrows := rfl
@[simp] theorem State.setPending_ngap (p : Option Pending) : (s.setPending p).ngap = s.ngap := rfl
@[simp] theorem State.setPending_rankCol (p : Option Pending) : (s.setPending p).rankCol = s.rankCol := rfl
@[simp] theorem State.setPending_gen (p : Option Pending) : (s.setPending p).gen = s.gen := rfl
@[simp] theorem State.setPending_out (p : Option Pending) : (s.setPending p).out = s.out := rfl
@[simp] theorem State.setPending_mats (p : Option Pending) : (s.setPending p).mats = s.mats := rfl
@[simp] theorem State.setPending_eqns (p : Option Pending) : (s.setPending p).eqns = s.eqns := rfl
@[simp] theorem State.setPending_rhs (p : Option Pending) : (s.setPending p).rhs = s.rhs := rfl
@[simp] theorem State.setPending_gaps (p : Option Pending) : (s.setPending p).gaps = s.gaps := rfl
@[simp] theorem State.setPending_pending (p : Option Pending) : (s.setPending p).pending = p := rfl
@[simp] theorem State.setPending_rst (p : Option Pending) : (s.setPending p).rst = s.rst := rfl
@[simp] theorem State.setPending_rdata (p : Option Pending) : (s.setPending p).rdata = s.rdata := rfl
@[simp] theorem State.setPending_inbox (p : Option Pending) : (s.setPending p).inbox = s.inbox := rfl
@[simp] theorem State.setPending_draws (p : Option Pending) : (s.setPending p).draws = s.draws := rfl

@[simp] theorem State.setRst_eqFlag (b : Bool) : (s.setRst b).eqFlag = s.eqFlag := rfl
@[simp] theorem State.setRst_incon (b : Bool) : (s.setRst b).incon = s.incon := rfl
@[simp] theorem State.setRst_ovr (b : Bool) : (s.setRst b).ovr = s.ovr := rfl
@[simp] theorem State.setRst_err (b : Bool) : (s.setRst b).err = s.err := rfl
@[simp] theorem State.setRst_arg (b : Bool) : (s.setRst b).arg = s.arg := rfl
@[simp] theorem State.setRst_nrows (b : Bool) : (s.setRst b).nrows = s.nrows := rfl
@[simp] theorem State.setRst_ngap (b : Bool) : (s.setRst b).ngap = s.ngap := rfl
@[simp] theorem State.setRst_rankCol (b : Bool) : (s.setRst b).rankCol = s.rankCol := rfl
@[simp] theorem State.setRst_gen (b : Bool) : (s.setRst b).gen = s.gen := rfl
@[simp] theorem State.setRst_out (b : Bool) : (s.setRst b).out = s.out := rfl
@[simp] theorem State.setRst_mats (b : Bool) : (s.setRst b).mats = s.mats := rfl
@[simp] theorem State.setRst_eqns (b : Bool) : (s.setRst b).eqns = s.eqns := rfl
@[simp] theorem State.setRst_rhs (b : Bool) : (s.setRst b).rhs = s.rhs := rfl
@[simp] theorem State.setRst_gaps (b : Bool) : (s.setRst b).gaps = s.gaps := rfl
@[simp] theorem State.setRst_pending (b : Bool) : (s.setRst b).pending = s.pending := rfl
@[simp] theorem State.setRst_rst (b : Bool) : (s.setRst b).rst = b := rfl
@[simp] theorem State.setRst_rdata (b : Bool) : (s.setRst b).rdata = s.rdata := rfl
@[simp] theorem State.setRst_inbox (b : Bool) : (s.setRst b).inbox = s.inbox := rfl
@[simp] theorem State.setRst_draws (b : Bool) : (s.setRst b).draws = s.draws := rfl

@[simp] theorem State.setRdata_eqFlag (v : Word) : (s.setRdata v).eqFlag = s.eqFlag := rfl
@[simp] theorem State.setRdata_incon (v : Word) : (s.setRdata v).incon = s.incon := rfl
@[simp] theorem State.setRdata_ovr (v : Word) : (s.setRdata v).ovr = s.ovr := rfl
@[simp] theorem State.setRdata_err (v : Word) : (s.setRdata v).err = s.err := rfl
@[simp] theorem State.setRdata_arg (v : Word) : (s.setRdata v).arg = s.arg := rfl
@[simp] theorem State.setRdata_nrows (v : Word) : (s.setRdata v).nrows = s.nrows := rfl
@[simp] theorem State.setRdata_ngap (v : Word) : (s.setRdata v).ngap = s.ngap := rfl
@[simp] theorem State.setRdata_rankCol (v : Word) : (s.setRdata v).rankCol = s.rankCol := rfl
@[simp] theorem State.setRdata_gen (v : Word) : (s.setRdata v).gen = s.gen := rfl
@[simp] theorem State.setRdata_out (v : Word) : (s.setRdata v).out = s.out := rfl
@[simp] theorem State.setRdata_mats (v : Word) : (s.setRdata v).mats = s.mats := rfl
@[simp] theorem State.setRdata_eqns (v : Word) : (s.setRdata v).eqns = s.eqns := rfl
@[simp] theorem State.setRdata_rhs (v : Word) : (s.setRdata v).rhs = s.rhs := rfl
@[simp] theorem State.setRdata_gaps (v : Word) : (s.setRdata v).gaps = s.gaps := rfl
@[simp] theorem State.setRdata_pending (v : Word) : (s.setRdata v).pending = s.pending := rfl
@[simp] theorem State.setRdata_rst (v : Word) : (s.setRdata v).rst = s.rst := rfl
@[simp] theorem State.setRdata_rdata (v : Word) : (s.setRdata v).rdata = v := rfl
@[simp] theorem State.setRdata_inbox (v : Word) : (s.setRdata v).inbox = s.inbox := rfl
@[simp] theorem State.setRdata_draws (v : Word) : (s.setRdata v).draws = s.draws := rfl

@[simp] theorem State.setInbox_eqFlag (l : List BusOp) : (s.setInbox l).eqFlag = s.eqFlag := rfl
@[simp] theorem State.setInbox_incon (l : List BusOp) : (s.setInbox l).incon = s.incon := rfl
@[simp] theorem State.setInbox_ovr (l : List BusOp) : (s.setInbox l).ovr = s.ovr := rfl
@[simp] theorem State.setInbox_err (l : List BusOp) : (s.setInbox l).err = s.err := rfl
@[simp] theorem State.setInbox_arg (l : List BusOp) : (s.setInbox l).arg = s.arg := rfl
@[simp] theorem State.setInbox_nrows (l : List BusOp) : (s.setInbox l).nrows = s.nrows := rfl
@[simp] theorem State.setInbox_ngap (l : List BusOp) : (s.setInbox l).ngap = s.ngap := rfl
@[simp] theorem State.setInbox_rankCol (l : List BusOp) : (s.setInbox l).rankCol = s.rankCol := rfl
@[simp] theorem State.setInbox_gen (l : List BusOp) : (s.setInbox l).gen = s.gen := rfl
@[simp] theorem State.setInbox_out (l : List BusOp) : (s.setInbox l).out = s.out := rfl
@[simp] theorem State.setInbox_mats (l : List BusOp) : (s.setInbox l).mats = s.mats := rfl
@[simp] theorem State.setInbox_eqns (l : List BusOp) : (s.setInbox l).eqns = s.eqns := rfl
@[simp] theorem State.setInbox_rhs (l : List BusOp) : (s.setInbox l).rhs = s.rhs := rfl
@[simp] theorem State.setInbox_gaps (l : List BusOp) : (s.setInbox l).gaps = s.gaps := rfl
@[simp] theorem State.setInbox_pending (l : List BusOp) : (s.setInbox l).pending = s.pending := rfl
@[simp] theorem State.setInbox_rst (l : List BusOp) : (s.setInbox l).rst = s.rst := rfl
@[simp] theorem State.setInbox_rdata (l : List BusOp) : (s.setInbox l).rdata = s.rdata := rfl
@[simp] theorem State.setInbox_inbox (l : List BusOp) : (s.setInbox l).inbox = l := rfl
@[simp] theorem State.setInbox_draws (l : List BusOp) : (s.setInbox l).draws = s.draws := rfl

@[simp] theorem State.drawn_eqFlag : (s.drawn).eqFlag = s.eqFlag := rfl
@[simp] theorem State.drawn_incon : (s.drawn).incon = s.incon := rfl
@[simp] theorem State.drawn_ovr : (s.drawn).ovr = s.ovr := rfl
@[simp] theorem State.drawn_err : (s.drawn).err = s.err := rfl
@[simp] theorem State.drawn_arg : (s.drawn).arg = s.arg := rfl
@[simp] theorem State.drawn_nrows : (s.drawn).nrows = s.nrows := rfl
@[simp] theorem State.drawn_ngap : (s.drawn).ngap = s.ngap := rfl
@[simp] theorem State.drawn_rankCol : (s.drawn).rankCol = s.rankCol := rfl
@[simp] theorem State.drawn_gen : (s.drawn).gen = s.gen := rfl
@[simp] theorem State.drawn_out : (s.drawn).out = s.out := rfl
@[simp] theorem State.drawn_mats : (s.drawn).mats = s.mats := rfl
@[simp] theorem State.drawn_eqns : (s.drawn).eqns = s.eqns := rfl
@[simp] theorem State.drawn_rhs : (s.drawn).rhs = s.rhs := rfl
@[simp] theorem State.drawn_gaps : (s.drawn).gaps = s.gaps := rfl
@[simp] theorem State.drawn_pending : (s.drawn).pending = s.pending := rfl
@[simp] theorem State.drawn_rst : (s.drawn).rst = s.rst := rfl
@[simp] theorem State.drawn_rdata : (s.drawn).rdata = s.rdata := rfl
@[simp] theorem State.drawn_inbox : (s.drawn).inbox = s.inbox := rfl
@[simp] theorem State.drawn_draws : (s.drawn).draws = s.draws + 1 := rfl

@[simp] theorem State.startCommand_eqFlag (w : Word) : (s.startCommand w).eqFlag = s.eqFlag := rfl
@[simp] theorem State.startCommand_incon (w : Word) : (s.startCommand w).incon = s.incon := rfl
@[simp] theorem State.startCommand_ovr (w : Word) : (s.startCommand w).ovr = s.ovr := rfl
@[simp] theorem State.startCommand_err (w : Word) : (s.startCommand w).err = s.err := rfl
@[simp] theorem State.startCommand_arg (w : Word) : (s.startCommand w).arg = s.arg := rfl
@[simp] theorem State.startCommand_nrows (w : Word) : (s.startCommand w).nrows = s.nrows := rfl
@[simp] theorem State.startCommand_ngap (w : Word) : (s.startCommand w).ngap = s.ngap := rfl
@[simp] theorem State.startCommand_rankCol (w : Word) : (s.startCommand w).rankCol = s.rankCol := rfl
@[simp] theorem State.startCommand_gen (w : Word) : (s.startCommand w).gen = s.gen := rfl
@[simp] theorem State.startCommand_out (w : Word) : (s.startCommand w).out = s.out := rfl
@[simp] theorem State.startCommand_mats (w : Word) : (s.startCommand w).mats = s.mats := rfl
@[simp] theorem State.startCommand_eqns (w : Word) : (s.startCommand w).eqns = s.eqns := rfl
@[simp] theorem State.startCommand_rhs (w : Word) : (s.startCommand w).rhs = s.rhs := rfl
@[simp] theorem State.startCommand_gaps (w : Word) : (s.startCommand w).gaps = s.gaps := rfl
@[simp] theorem State.startCommand_pending (w : Word) : (s.startCommand w).pending = some ⟨w, Config.latency s.draws⟩ := rfl
@[simp] theorem State.startCommand_rst (w : Word) : (s.startCommand w).rst = s.rst := rfl
@[simp] theorem State.startCommand_rdata (w : Word) : (s.startCommand w).rdata = s.rdata := rfl
@[simp] theorem State.startCommand_inbox (w : Word) : (s.startCommand w).inbox = s.inbox := rfl
@[simp] theorem State.startCommand_draws (w : Word) : (s.startCommand w).draws = s.draws + 1 := rfl

@[simp] theorem State.placeCommand_eqFlag (w : Word) : (s.placeCommand w).eqFlag = s.eqFlag := rfl
@[simp] theorem State.placeCommand_incon (w : Word) : (s.placeCommand w).incon = s.incon := rfl
@[simp] theorem State.placeCommand_ovr (w : Word) : (s.placeCommand w).ovr = s.ovr := rfl
@[simp] theorem State.placeCommand_err (w : Word) : (s.placeCommand w).err = s.err := rfl
@[simp] theorem State.placeCommand_arg (w : Word) : (s.placeCommand w).arg = s.arg := rfl
@[simp] theorem State.placeCommand_nrows (w : Word) : (s.placeCommand w).nrows = s.nrows := rfl
@[simp] theorem State.placeCommand_ngap (w : Word) : (s.placeCommand w).ngap = s.ngap := rfl
@[simp] theorem State.placeCommand_rankCol (w : Word) : (s.placeCommand w).rankCol = s.rankCol := rfl
@[simp] theorem State.placeCommand_gen (w : Word) : (s.placeCommand w).gen = s.gen := rfl
@[simp] theorem State.placeCommand_out (w : Word) : (s.placeCommand w).out = s.out := rfl
@[simp] theorem State.placeCommand_mats (w : Word) : (s.placeCommand w).mats = s.mats := rfl
@[simp] theorem State.placeCommand_eqns (w : Word) : (s.placeCommand w).eqns = s.eqns := rfl
@[simp] theorem State.placeCommand_rhs (w : Word) : (s.placeCommand w).rhs = s.rhs := rfl
@[simp] theorem State.placeCommand_gaps (w : Word) : (s.placeCommand w).gaps = s.gaps := rfl
@[simp] theorem State.placeCommand_pending (w : Word) : (s.placeCommand w).pending = some ⟨w, 0⟩ := rfl
@[simp] theorem State.placeCommand_rst (w : Word) : (s.placeCommand w).rst = false := rfl
@[simp] theorem State.placeCommand_rdata (w : Word) : (s.placeCommand w).rdata = s.rdata := rfl
@[simp] theorem State.placeCommand_inbox (w : Word) : (s.placeCommand w).inbox = s.inbox := rfl
@[simp] theorem State.placeCommand_draws (w : Word) : (s.placeCommand w).draws = s.draws := rfl

/-! ### Derived reads -/

@[simp] theorem State.mat_setMat_self (rd : MatReg) (A : Matrix) : (s.setMat rd A).mat rd = A := by
  simp [State.mat]

theorem State.mat_setMat_ne {rd r : MatReg} (h : r ≠ rd) (A : Matrix) : (s.setMat rd A).mat r = s.mat r := by
  have h' : rd.val ≠ r.val := fun e => h (Fin.ext e.symm)
  simp [State.mat, h']

@[simp] theorem State.mat_complete (c : ErrCode) (r : MatReg) : (s.complete c).mat r = s.mat r := rfl

theorem State.busy_iff : s.busy = true ↔ ∃ p, s.pending = some p := by
  simp [State.busy, Option.isSome_iff_exists]

/-- Two states with equal fields are equal. -/
theorem State.ext_fields {s t : State}
    (h_eqFlag : s.eqFlag = t.eqFlag)
    (h_incon : s.incon = t.incon)
    (h_ovr : s.ovr = t.ovr)
    (h_err : s.err = t.err)
    (h_arg : s.arg = t.arg)
    (h_nrows : s.nrows = t.nrows)
    (h_ngap : s.ngap = t.ngap)
    (h_rankCol : s.rankCol = t.rankCol)
    (h_gen : s.gen = t.gen)
    (h_out : s.out = t.out)
    (h_mats : s.mats = t.mats)
    (h_eqns : s.eqns = t.eqns)
    (h_rhs : s.rhs = t.rhs)
    (h_gaps : s.gaps = t.gaps)
    (h_pending : s.pending = t.pending)
    (h_rst : s.rst = t.rst)
    (h_rdata : s.rdata = t.rdata)
    (h_inbox : s.inbox = t.inbox)
    (h_draws : s.draws = t.draws) : s = t := by
  cases s; cases t; simp_all

end Sys2Proof.Machine
end

