-- ==== Sys2Proof/Laws/Ops.lean ====
section
/-! SUPPORT. The shared operations: what completing, raising and the index check can answer. -/

namespace Sys2Proof.Machine

theorem regsOk_all (rs : List MatReg) : regsOk rs = true := by
  simp only [regsOk, List.all_eq_true, decide_eq_true_eq]
  exact fun r _ => r.isLt

/-- With NMAT = 16 every 4-bit index is in range (R104), so the check never raises. -/
theorem withRegs_eq (rs : List MatReg) (s : State) (k : State → Result) : withRegs rs s k = k s := by
  rw [withRegs, regsOk_all, if_pos rfl]

theorem finish_eq_next {s t : State} : finish s = .next t ↔ t = s.complete .ok := by
  rw [finish, Host.Outcome.next.injEq, eq_comm]

theorem raiseErr_eq_next {c : ErrCode} {s t : State} : raiseErr c s = .next t ↔ t = s.complete c := by
  rw [raiseErr, Host.Outcome.next.injEq, eq_comm]

theorem ErrCode.bits_le (c : ErrCode) : c.bits.toNat ≤ 3 := by cases c <;> decide

theorem ErrCode.bits_injective {c d : ErrCode} (h : c.bits = d.bits) : c = d := by
  revert h; cases c <;> cases d <;> decide

theorem errReserved_iff (e : BitVec 4) : errReserved e = true ↔ 3 < e.toNat := by simp [errReserved]

theorem ngapOk_iff (n : Nat) : ngapOk n = true ↔ n ≤ 64 := by
  simp only [ngapOk, Config.maxGaps, Config.nOutRows, Config.maxRows, Bool.and_eq_true, decide_eq_true_eq]
  omega

theorem nrowsOk_iff (n : Nat) : nrowsOk n = true ↔ n ≤ 256 := by
  simp only [nrowsOk, Config.maxRows, decide_eq_true_eq]

end Sys2Proof.Machine
end

