-- ==== Sys2Proof/Laws/Bus.lean ====
section
/-! SUPPORT. The host interface: the address map is what the offsets say, and what each access can answer. -/

namespace Sys2Proof.Machine

/-- The block decodes the offset back from the host byte address, wherever the platform puts it (R91). -/
theorem portOffset_hostAddress (a : BitVec 16) : portOffset (hostAddress a) = a := by
  apply BitVec.eq_of_toNat_eq
  have h := a.isLt
  simp only [portOffset, hostAddress, Config.base, BitVec.toNat_ofNat]
  omega

theorem toNat_offset_eqn (r : Fin 256) (k : Fin 4) :
    (Loc.eqn r k).offset.toNat = 0x1000 + 16 * r.val + 4 * k.val := by
  simp only [Loc.offset, BitVec.toNat_ofNat]; omega

theorem toNat_offset_rhs (i : Fin 8) : (Loc.rhs i).offset.toNat = 0x2000 + 4 * i.val := by
  simp only [Loc.offset, BitVec.toNat_ofNat]; omega

theorem toNat_offset_gap (i : Fin 64) : (Loc.gap i).offset.toNat = 0x3000 + 4 * i.val := by
  simp only [Loc.offset, BitVec.toNat_ofNat]; omega

theorem toNat_offset_mat (m : MatReg) (r : Fin 128) (k : Fin 4) :
    (Loc.mat m r k).offset.toNat = 0x8000 + 0x800 * m.val + 16 * r.val + 4 * k.val := by
  simp only [Loc.offset, BitVec.toNat_ofNat]; omega

/-- The map reads every location's own offset as that location (R72, R74–R77). -/
theorem Loc.ofOffset_offset (l : Loc) : Loc.ofOffset l.offset = l := by
  cases l with
  | gen k => revert k; decide
  | rhs i => revert i; decide
  | eqn r k =>
    have h := toNat_offset_eqn r k
    simp only [Loc.ofOffset, wordInRow, h]
    rw [if_neg (by omega), if_pos (by omega)]
    congr 1 <;> apply Fin.ext <;> simp only <;> omega
  | gap i =>
    have h := toNat_offset_gap i
    simp only [Loc.ofOffset, h]
    rw [if_neg (by omega), if_neg (by omega), if_neg (by omega), if_neg (by omega), if_pos (by omega)]
    congr 1; apply Fin.ext; simp only; omega
  | mat m r k =>
    have h := toNat_offset_mat m r k
    simp only [Loc.ofOffset, wordInRow, h]
    rw [if_neg (by omega), if_neg (by omega), if_neg (by omega), if_neg (by omega), if_neg (by omega), if_neg (by omega)]
    congr 1 <;> apply Fin.ext <;> simp only <;> omega
  | _ => decide

/-- Every location's offset is aligned (R71). -/
theorem accessSupported_offset (l : Loc) : accessSupported .word l.offset = true := by
  cases l with
  | gen k => revert k; decide
  | rhs i => revert i; decide
  | eqn r k => simp only [accessSupported, toNat_offset_eqn]; simp; omega
  | gap i => simp only [accessSupported, toNat_offset_gap]; simp
  | mat m r k => simp only [accessSupported, toNat_offset_mat]; simp; omega
  | _ => decide

/-! ### The right-hand-side words -/

theorem getMsbD_rhsWord (b : Vector Bool 256) {i j : Nat} (hi : i < 8) (hj : j < 32) :
    (rhsWord b i).getMsbD j = b[32 * i + j] := by
  have h : 32 * i + j < 256 := by omega
  simp [rhsWord, hj, h]

/-- RHS[32·i + j] is bit 31 − j of the word written (R75); the other bits keep their value. -/
theorem getElem_setRhsWord (b : Vector Bool 256) (i : Nat) (v : Word) {r : Nat} (h : r < 256) :
    (setRhsWord b i v)[r] = if r / 32 = i then v.getMsbD (r % 32) else b[r] := by
  simp [setRhsWord]

/-! ### What an access can answer -/

/-- A host read answers a next state that differs in the read data and the draw count, or faults on a reserved ERR code. -/
theorem hostRead_cases (a : BitVec 16) (s : State) :
    (∃ v, hostRead a s = .next ((s.setRdata v).drawn) ∧ (s.rst = true ∨ s.busy = true)) ∨
    (hostRead a s = .fault .reservedErrCode ∧ errReserved s.err = true) ∨
    hostRead a s = .next (s.setRdata (s.peek (Loc.ofOffset a))) := by
  simp only [hostRead]
  split
  · rename_i h
    refine .inl ⟨_, rfl, ?_⟩
    simp only [Bool.or_eq_true, Bool.and_eq_true] at h
    exact h.imp id And.left
  · split
    · rename_i h
      exact .inr (.inl ⟨rfl, h.2⟩)
    · exact .inr (.inr rfl)

/-- A host write answers a next state: no effect, the STATUS rule, a dropped write, or the write itself. -/
theorem hostWrite_cases (a : BitVec 16) (v : Word) (s : State) :
    (hostWrite a v s = .next s ∧ s.rst = true) ∨
    (hostWrite a v s = .next (statusWrite v s) ∧ s.rst = false ∧ Loc.ofOffset a = .status) ∨
    (hostWrite a v s = .next (s.setOvr true) ∧ s.rst = false ∧ Loc.ofOffset a ≠ .status ∧ s.busy = true) ∨
    (hostWrite a v s = .next (s.poke v (Loc.ofOffset a)) ∧ s.rst = false ∧ Loc.ofOffset a ≠ .status ∧ s.busy = false) := by
  simp only [hostWrite]
  cases hr : s.rst
  · by_cases hs : Loc.ofOffset a = .status
    · exact .inr (.inl (by simp [hs]))
    · cases hb : s.busy
      · exact .inr (.inr (.inr (by simp [hs])))
      · exact .inr (.inr (.inl (by simp [hs])))
  · exact .inl (by simp)

/-! ### What a write leaves alone -/

@[simp] theorem State.poke_eqFlag (s : State) (v : Word) (l : Loc) : (s.poke v l).eqFlag = s.eqFlag := by cases l <;> simp [State.poke, State.startCommand]
@[simp] theorem State.poke_incon (s : State) (v : Word) (l : Loc) : (s.poke v l).incon = s.incon := by cases l <;> simp [State.poke, State.startCommand]
@[simp] theorem State.poke_ovr (s : State) (v : Word) (l : Loc) : (s.poke v l).ovr = s.ovr := by cases l <;> simp [State.poke, State.startCommand]
@[simp] theorem State.poke_err (s : State) (v : Word) (l : Loc) : (s.poke v l).err = s.err := by cases l <;> simp [State.poke, State.startCommand]
@[simp] theorem State.poke_rankCol (s : State) (v : Word) (l : Loc) : (s.poke v l).rankCol = s.rankCol := by cases l <;> simp [State.poke, State.startCommand]
@[simp] theorem State.poke_out (s : State) (v : Word) (l : Loc) : (s.poke v l).out = s.out := by cases l <;> simp [State.poke, State.startCommand]
@[simp] theorem State.poke_rst (s : State) (v : Word) (l : Loc) : (s.poke v l).rst = s.rst := by cases l <;> simp [State.poke, State.startCommand]
@[simp] theorem State.poke_rdata (s : State) (v : Word) (l : Loc) : (s.poke v l).rdata = s.rdata := by cases l <;> simp [State.poke, State.startCommand]
@[simp] theorem State.poke_inbox (s : State) (v : Word) (l : Loc) : (s.poke v l).inbox = s.inbox := by cases l <;> simp [State.poke, State.startCommand]

/-- Only a write to CMD makes a command pending (R42). -/
theorem State.poke_pending (s : State) (v : Word) {l : Loc} (h : l ≠ .cmd) : (s.poke v l).pending = s.pending := by
  cases l <;> simp_all [State.poke]

theorem State.poke_draws (s : State) (v : Word) {l : Loc} (h : l ≠ .cmd) : (s.poke v l).draws = s.draws := by
  cases l <;> simp_all [State.poke]

/-! ### What an event at the ports is -/

theorem accessSupported_word {a : BitVec 16} (h : a.toNat % 4 = 0) : accessSupported .word a = true := by
  simp [accessSupported, h]

/-- Outside rst and with BUSY = 0, a read returns what the location holds (R73–R78, R82). -/
theorem busEvent_read_idle {s : State} {a : BitVec 16} (hr : s.rst = false) (hb : s.busy = false) (ha : a.toNat % 4 = 0)
    (he : Loc.ofOffset a = .status → s.err.toNat ≤ 3) :
    busEvent (.read .word a) s = .next (s.setRdata (s.peek (Loc.ofOffset a))) := by
  have hc : ¬ (Loc.ofOffset a = .status ∧ errReserved s.err = true) := by
    rintro ⟨h1, h2⟩
    have := he h1
    have := (errReserved_iff _).1 h2
    omega
  rw [busEvent, if_pos (accessSupported_word ha)]
  simp only [hostRead, hr, hb, Bool.false_and, Bool.false_or, Bool.false_eq_true, if_false, if_neg hc]

/-- Outside rst and with BUSY = 0, a write to anything but STATUS is the location's own (R38–R46, R73–R78). -/
theorem busEvent_write_idle {s : State} {a : BitVec 16} {v : Word} (hr : s.rst = false) (hb : s.busy = false) (ha : a.toNat % 4 = 0)
    (hs : Loc.ofOffset a ≠ .status) : busEvent (.write .word a v) s = .next (s.poke v (Loc.ofOffset a)) := by
  rw [busEvent, if_pos (accessSupported_word ha)]
  simp only [hostWrite, hr, hb, Bool.false_eq_true, if_false, if_neg hs]

/-- A poll is a read of STATUS and what its bit 0 decides (R84, R113). -/
theorem busEvent_poll (s : State) :
    busEvent .poll s =
      match busEvent (.read .word Loc.status.offset) s with
      | .next t => .next (if t.rdata.getLsbD 0 then t.setInbox (.poll :: t.inbox) else t)
      | .fault r => .fault r
      | .refused r => .refused r := by
  rw [show busEvent (.read .word Loc.status.offset) s = hostRead Loc.status.offset s from rfl]
  rfl

end Sys2Proof.Machine
end

