-- ==== Sys2Proof/Laws/Decode.lean ====
section
/-! SUPPORT. The command word: the fields of a packed word, the reserved bits, and the opcode map. -/

namespace Sys2Proof

theorem extract_append_high {v w : Nat} (hi : BitVec v) (lo : BitVec w) {start : Nat} (len : Nat) (h : w ≤ start) :
    (hi ++ lo).extractLsb' start len = hi.extractLsb' (start - w) len := by
  rw [BitVec.extractLsb'_append_eq_ite, dif_neg (by omega)]

theorem extract_append_low {v w : Nat} (hi : BitVec v) (lo : BitVec w) {start len : Nat} (h : start < w)
    (h' : start + len ≤ w) : (hi ++ lo).extractLsb' start len = lo.extractLsb' start len := by
  rw [BitVec.extractLsb'_append_eq_ite, dif_pos h, dif_pos h']

section pack

variable (op : BitVec 8) (rd ra rb : BitVec 4) (imm : BitVec 12)

@[simp] theorem opField_pack : opField (pack op rd ra rb imm) = op := by
  show BitVec.extractLsb' 24 8 (op ++ rd ++ ra ++ rb ++ imm : BitVec (8 + 4 + 4 + 4 + 12)) = op
  rw [extract_append_high _ _ _ (by decide), extract_append_high _ _ _ (by decide), extract_append_high _ _ _ (by decide),
    extract_append_high _ _ _ (by decide)]
  exact BitVec.extractLsb'_eq_self

@[simp] theorem rdField_pack : rdField (pack op rd ra rb imm) = rd := by
  show BitVec.extractLsb' 20 4 (op ++ rd ++ ra ++ rb ++ imm : BitVec (8 + 4 + 4 + 4 + 12)) = rd
  rw [extract_append_high _ _ _ (by decide), extract_append_high _ _ _ (by decide), extract_append_high _ _ _ (by decide),
    extract_append_low _ _ (by decide) (by decide)]
  exact BitVec.extractLsb'_eq_self

@[simp] theorem raField_pack : raField (pack op rd ra rb imm) = ra := by
  show BitVec.extractLsb' 16 4 (op ++ rd ++ ra ++ rb ++ imm : BitVec (8 + 4 + 4 + 4 + 12)) = ra
  rw [extract_append_high _ _ _ (by decide), extract_append_high _ _ _ (by decide),
    extract_append_low _ _ (by decide) (by decide)]
  exact BitVec.extractLsb'_eq_self

@[simp] theorem rbField_pack : rbField (pack op rd ra rb imm) = rb := by
  show BitVec.extractLsb' 12 4 (op ++ rd ++ ra ++ rb ++ imm : BitVec (8 + 4 + 4 + 4 + 12)) = rb
  rw [extract_append_high _ _ _ (by decide), extract_append_low _ _ (by decide) (by decide)]
  exact BitVec.extractLsb'_eq_self

variable (op' : BitVec 8) (rd' ra' rb' : BitVec 4) (imm' : BitVec 12)

theorem pack_and : pack op rd ra rb imm &&& pack op' rd' ra' rb' imm'
    = pack (op &&& op') (rd &&& rd') (ra &&& ra') (rb &&& rb') (imm &&& imm') := by
  show (op ++ rd ++ ra ++ rb ++ imm : BitVec (8 + 4 + 4 + 4 + 12)) &&&
    (op' ++ rd' ++ ra' ++ rb' ++ imm' : BitVec (8 + 4 + 4 + 4 + 12)) = _
  simp only [BitVec.and_append]
  rfl

end pack

section packBlk

variable (op : BitVec 8) (rd : BitVec 4) (bi bj kind : BitVec 2) (x : BitVec 1) (k : BitVec 8)

@[simp] theorem opField_packBlk : opField (packBlk op rd bi bj kind x k) = op := by
  show BitVec.extractLsb' 24 8 (op ++ rd ++ bi ++ bj ++ kind ++ x ++ 0#5 ++ k : BitVec (8 + 4 + 2 + 2 + 2 + 1 + 5 + 8)) = op
  rw [extract_append_high _ _ _ (by decide), extract_append_high _ _ _ (by decide), extract_append_high _ _ _ (by decide),
    extract_append_high _ _ _ (by decide), extract_append_high _ _ _ (by decide), extract_append_high _ _ _ (by decide),
    extract_append_high _ _ _ (by decide)]
  exact BitVec.extractLsb'_eq_self

@[simp] theorem rdField_packBlk : rdField (packBlk op rd bi bj kind x k) = rd := by
  show BitVec.extractLsb' 20 4 (op ++ rd ++ bi ++ bj ++ kind ++ x ++ 0#5 ++ k : BitVec (8 + 4 + 2 + 2 + 2 + 1 + 5 + 8)) = rd
  rw [extract_append_high _ _ _ (by decide), extract_append_high _ _ _ (by decide), extract_append_high _ _ _ (by decide),
    extract_append_high _ _ _ (by decide), extract_append_high _ _ _ (by decide), extract_append_high _ _ _ (by decide),
    extract_append_low _ _ (by decide) (by decide)]
  exact BitVec.extractLsb'_eq_self

@[simp] theorem biField_packBlk : biField (packBlk op rd bi bj kind x k) = bi := by
  show BitVec.extractLsb' 18 2 (op ++ rd ++ bi ++ bj ++ kind ++ x ++ 0#5 ++ k : BitVec (8 + 4 + 2 + 2 + 2 + 1 + 5 + 8)) = bi
  rw [extract_append_high _ _ _ (by decide), extract_append_high _ _ _ (by decide), extract_append_high _ _ _ (by decide),
    extract_append_high _ _ _ (by decide), extract_append_high _ _ _ (by decide), extract_append_low _ _ (by decide) (by decide)]
  exact BitVec.extractLsb'_eq_self

@[simp] theorem bjField_packBlk : bjField (packBlk op rd bi bj kind x k) = bj := by
  show BitVec.extractLsb' 16 2 (op ++ rd ++ bi ++ bj ++ kind ++ x ++ 0#5 ++ k : BitVec (8 + 4 + 2 + 2 + 2 + 1 + 5 + 8)) = bj
  rw [extract_append_high _ _ _ (by decide), extract_append_high _ _ _ (by decide), extract_append_high _ _ _ (by decide),
    extract_append_high _ _ _ (by decide), extract_append_low _ _ (by decide) (by decide)]
  exact BitVec.extractLsb'_eq_self

@[simp] theorem kindField_packBlk : kindField (packBlk op rd bi bj kind x k) = kind := by
  show BitVec.extractLsb' 14 2 (op ++ rd ++ bi ++ bj ++ kind ++ x ++ 0#5 ++ k : BitVec (8 + 4 + 2 + 2 + 2 + 1 + 5 + 8)) = kind
  rw [extract_append_high _ _ _ (by decide), extract_append_high _ _ _ (by decide), extract_append_high _ _ _ (by decide),
    extract_append_low _ _ (by decide) (by decide)]
  exact BitVec.extractLsb'_eq_self

@[simp] theorem xField_packBlk : xField (packBlk op rd bi bj kind x k) = x := by
  show BitVec.extractLsb' 13 1 (op ++ rd ++ bi ++ bj ++ kind ++ x ++ 0#5 ++ k : BitVec (8 + 4 + 2 + 2 + 2 + 1 + 5 + 8)) = x
  rw [extract_append_high _ _ _ (by decide), extract_append_high _ _ _ (by decide),
    extract_append_low _ _ (by decide) (by decide)]
  exact BitVec.extractLsb'_eq_self

@[simp] theorem kField_packBlk : kField (packBlk op rd bi bj kind x k) = k := by
  show BitVec.extractLsb' 0 8 (op ++ rd ++ bi ++ bj ++ kind ++ x ++ 0#5 ++ k : BitVec (8 + 4 + 2 + 2 + 2 + 1 + 5 + 8)) = k
  rw [extract_append_low _ _ (by decide) (by decide)]
  exact BitVec.extractLsb'_eq_self

theorem packBlk_reserved : packBlk op rd bi bj kind x k &&& Format.reserved .fblk = 0 := by
  show (op ++ rd ++ bi ++ bj ++ kind ++ x ++ 0#5 ++ k : BitVec (8 + 4 + 2 + 2 + 2 + 1 + 5 + 8)) &&&
    (0#8 ++ 0#4 ++ 0#2 ++ 0#2 ++ 0#2 ++ 0#1 ++ 31#5 ++ 0#8 : BitVec (8 + 4 + 2 + 2 + 2 + 1 + 5 + 8)) = _
  simp only [BitVec.and_append, BitVec.and_zero, BitVec.zero_and]
  rfl

end packBlk

/-! ### Register and block fields -/

@[simp] theorem regOfBits_regBits (r : MatReg) : regOfBits (regBits r) = r := by
  apply Fin.ext
  simp [regOfBits, regBits]

@[simp] theorem regBits_regOfBits (b : BitVec 4) : regBits (regOfBits b) = b := by
  simp [regOfBits, regBits]

@[simp] theorem idxOfBits_idxBits (i : BlockIdx) : idxOfBits (idxBits i) = i := by
  apply Fin.ext
  simp [idxOfBits, idxBits]

@[simp] theorem idxBits_idxOfBits (b : BitVec 2) : idxBits (idxOfBits b) = b := by
  simp [idxOfBits, idxBits]

@[simp] theorem modeOfBits_bits (m : BlockMode) : modeOfBits m.bits = m := by cases m <;> rfl

theorem bits_modeOfBits (b : BitVec 1) : (modeOfBits b).bits = b := by revert b; decide

/-- sext_8 undoes the 8-bit two's complement in its range (R105). -/
theorem toInt_ofInt_8 {k : Int} (h : -128 ≤ k) (h' : k ≤ 127) : (BitVec.ofInt 8 k).toInt = k := by
  rw [BitVec.toInt_ofInt, Int.bmod_def]
  split <;> omega

/-! ### Opcodes and formats -/

@[simp] theorem opcodeOf_bits (o : Opcode) : opcodeOf o.bits = some o := by cases o <;> rfl

theorem opcodeOf_eq_some {b : BitVec 8} {o : Opcode} (h : opcodeOf b = some o) : o.bits = b := by
  simpa using List.find?_some h

/-- The opcode of each command (R106). -/
def Instr.opcode : Instr → Opcode
  | .nop => .nop
  | .stepf => .stepf
  | .stepb => .stepb
  | .stepn => .stepn
  | .mzero _ => .mzero
  | .mident _ => .mident
  | .mtr _ => .mtr
  | .mblk _ _ _ _ _ => .mblk
  | .mxor _ _ _ => .mxor
  | .mmul _ _ _ => .mmul
  | .mpow _ _ => .mpow
  | .mtrn _ _ => .mtrn
  | .meq _ _ => .meq
  | .mapply _ => .mapply
  | .mrows _ => .mrows
  | .solve => .solve

/-! ### A packed word of a format has no reserved bit -/

theorem pack_f0 (op : BitVec 8) : pack op 0 0 0 0 &&& Format.reserved .f0 = 0 := by
  rw [show Format.reserved .f0 = pack 0 (-1) (-1) (-1) (-1) from by decide, pack_and]
  simp only [BitVec.ofNat_eq_ofNat, BitVec.and_zero, BitVec.zero_and]
  decide

theorem pack_fd (op : BitVec 8) (rd : BitVec 4) : pack op rd 0 0 0 &&& Format.reserved .fd = 0 := by
  rw [show Format.reserved .fd = pack 0 0 (-1) (-1) (-1) from by decide, pack_and]
  simp only [BitVec.ofNat_eq_ofNat, BitVec.and_zero, BitVec.zero_and]
  decide

theorem pack_fda (op : BitVec 8) (rd ra : BitVec 4) : pack op rd ra 0 0 &&& Format.reserved .fda = 0 := by
  rw [show Format.reserved .fda = pack 0 0 0 (-1) (-1) from by decide, pack_and]
  simp only [BitVec.ofNat_eq_ofNat, BitVec.and_zero, BitVec.zero_and]
  decide

theorem pack_fdab (op : BitVec 8) (rd ra rb : BitVec 4) : pack op rd ra rb 0 &&& Format.reserved .fdab = 0 := by
  rw [show Format.reserved .fdab = pack 0 0 0 0 (-1) from by decide, pack_and]
  simp only [BitVec.ofNat_eq_ofNat, BitVec.and_zero, BitVec.zero_and]
  decide

theorem pack_fab (op : BitVec 8) (ra rb : BitVec 4) : pack op 0 ra rb 0 &&& Format.reserved .fab = 0 := by
  rw [show Format.reserved .fab = pack 0 (-1) 0 0 (-1) from by decide, pack_and]
  simp only [BitVec.ofNat_eq_ofNat, BitVec.and_zero, BitVec.zero_and]
  decide

theorem pack_fa (op : BitVec 8) (ra : BitVec 4) : pack op 0 ra 0 0 &&& Format.reserved .fa = 0 := by
  rw [show Format.reserved .fa = pack 0 (-1) 0 (-1) (-1) from by decide, pack_and]
  simp only [BitVec.ofNat_eq_ofNat, BitVec.and_zero, BitVec.zero_and]
  decide

end Sys2Proof
end

