-- ==== Sys2Proof/Laws/Gf2.lean ====
section
/-! SUPPORT. GF(2) matrices: the entries of each operation (R14), and the algebra that follows from them. -/

namespace Sys2Proof

variable {n : Nat}

/-! ### Rows and entries -/

theorem BitMat.row_ofRows (f : Nat → BitVec n) {r : Nat} (h : r < n) : (BitMat.ofRows f).row r = f r := by
  simp [BitMat.row, BitMat.ofRows, h]

theorem BitMat.row_of_ge (A : BitMat n) {r : Nat} (h : n ≤ r) : A.row r = 0 := by
  simp [BitMat.row, h]

theorem BitMat.row_eq_getElem (A : BitMat n) {r : Nat} (h : r < n) : A.row r = A[r] := by
  simp [BitMat.row, h]

theorem BitMat.bit_of_row_ge (A : BitMat n) {r : Nat} (c : Nat) (h : n ≤ r) : A.bit r c = false := by
  simp [BitMat.bit, BitMat.row_of_ge A h]

theorem BitMat.bit_of_col_ge (A : BitMat n) (r : Nat) {c : Nat} (h : n ≤ c) : A.bit r c = false := by
  simp [BitMat.bit, h]

theorem BitMat.bit_ofRows (f : Nat → BitVec n) {r : Nat} (h : r < n) (c : Nat) :
    (BitMat.ofRows f).bit r c = (f r).getMsbD c := by
  rw [BitMat.bit, BitMat.row_ofRows f h]

theorem BitMat.bit_ofBits (f : Nat → Nat → Bool) {r c : Nat} (hr : r < n) (hc : c < n) :
    (BitMat.ofBits f : BitMat n).bit r c = f r c := by
  simp [BitMat.ofBits, BitMat.bit_ofRows _ hr, hc]

/-- Matrices with equal rows are equal. -/
theorem BitMat.ext_rows {A B : BitMat n} (h : ∀ r < n, A.row r = B.row r) : A = B := by
  apply Vector.ext
  intro r hr
  rw [← BitMat.row_eq_getElem A hr, ← BitMat.row_eq_getElem B hr, h r hr]

/-- Matrices with equal entries are equal (R178). -/
theorem BitMat.ext_bits {A B : BitMat n} (h : ∀ r < n, ∀ c < n, A.bit r c = B.bit r c) : A = B :=
  BitMat.ext_rows fun r hr => BitVec.eq_of_getMsbD_eq fun c hc => h r hr c hc

theorem BitMat.bit_zero (r c : Nat) : (BitMat.zero : BitMat n).bit r c = false := by
  by_cases h : r < n
  · simp [BitMat.zero, BitMat.bit_ofRows _ h]
  · exact BitMat.bit_of_row_ge _ c (by omega)

theorem BitMat.bit_ident {r c : Nat} (hr : r < n) (hc : c < n) :
    (BitMat.ident : BitMat n).bit r c = decide (r = c) := BitMat.bit_ofBits _ hr hc

theorem BitMat.bit_add (A B : BitMat n) (r c : Nat) : (A.add B).bit r c = (A.bit r c ^^ B.bit r c) := by
  by_cases h : r < n
  · rw [BitMat.add, BitMat.bit_ofRows _ h]; simp [BitMat.bit]
  · simp [BitMat.bit_of_row_ge _ c (show n ≤ r by omega)]

/-- (A·B)[r][c] = XOR over k of A[r][k] AND B[k][c] (R14). -/
theorem BitMat.bit_mul (A B : BitMat n) {r : Nat} (h : r < n) (c : Nat) :
    (A.mul B).bit r c = xorBits n fun k => A.bit r k && B.bit k c := by
  rw [BitMat.mul, BitMat.bit_ofRows _ h, getMsbD_xorVecs]
  apply xorBits_congr
  intro k _
  cases A.bit r k <;> simp [BitMat.bit]

theorem BitMat.bit_transpose (A : BitMat n) {r c : Nat} (hr : r < n) (hc : c < n) :
    A.transpose.bit r c = A.bit c r := BitMat.bit_ofBits _ hr hc

theorem BitMat.getMsbD_mulVec (A : BitMat n) (v : BitVec n) {r : Nat} (h : r < n) :
    (A.mulVec v).getMsbD r = xorBits n fun c => A.bit r c && v.getMsbD c := by
  simp [BitMat.mulVec, h]

/-! ### Algebra (R173, R177) -/

theorem BitMat.mul_assoc (A B C : BitMat n) : (A.mul B).mul C = A.mul (B.mul C) := by
  apply BitMat.ext_bits
  intro r hr c _
  rw [BitMat.bit_mul _ _ hr, BitMat.bit_mul _ _ hr]
  calc
    xorBits n (fun k => (A.mul B).bit r k && C.bit k c)
        = xorBits n (fun k => xorBits n fun j => A.bit r j && B.bit j k && C.bit k c) := by
          apply xorBits_congr; intro k _; rw [BitMat.bit_mul _ _ hr, xorBits_and_right]
    _ = xorBits n (fun j => xorBits n fun k => A.bit r j && B.bit j k && C.bit k c) := xorBits_comm _ _ _
    _ = xorBits n (fun j => A.bit r j && (B.mul C).bit j c) := by
          apply xorBits_congr; intro j hj
          rw [BitMat.bit_mul _ _ hj, ← xorBits_and_left]
          apply xorBits_congr; intro k _; rw [Bool.and_assoc]

theorem BitMat.ident_mul (A : BitMat n) : BitMat.ident.mul A = A := by
  apply BitMat.ext_bits
  intro r hr c _
  rw [BitMat.bit_mul _ _ hr]
  rw [xorBits_congr (g := fun k => decide (k = r) && A.bit k c), xorBits_single]
  · simp [hr]
  · intro k hk; rw [BitMat.bit_ident hr hk]; simp [eq_comm]

theorem BitMat.mul_ident (A : BitMat n) : A.mul BitMat.ident = A := by
  apply BitMat.ext_bits
  intro r hr c hc
  rw [BitMat.bit_mul _ _ hr]
  rw [xorBits_congr (g := fun k => decide (k = c) && A.bit r k), xorBits_single]
  · simp [hc]
  · intro k hk; rw [BitMat.bit_ident hk hc, Bool.and_comm]

theorem BitMat.mulVec_mul (A B : BitMat n) (v : BitVec n) : (A.mul B).mulVec v = A.mulVec (B.mulVec v) := by
  apply BitVec.eq_of_getMsbD_eq
  intro r hr
  rw [BitMat.getMsbD_mulVec _ _ hr, BitMat.getMsbD_mulVec _ _ hr]
  calc
    xorBits n (fun c => (A.mul B).bit r c && v.getMsbD c)
        = xorBits n (fun c => xorBits n fun k => A.bit r k && B.bit k c && v.getMsbD c) := by
          apply xorBits_congr; intro c _; rw [BitMat.bit_mul _ _ hr, xorBits_and_right]
    _ = xorBits n (fun k => xorBits n fun c => A.bit r k && B.bit k c && v.getMsbD c) := xorBits_comm _ _ _
    _ = xorBits n (fun k => A.bit r k && (B.mulVec v).getMsbD k) := by
          apply xorBits_congr; intro k hk
          rw [BitMat.getMsbD_mulVec _ _ hk, ← xorBits_and_left]
          apply xorBits_congr; intro c _; rw [Bool.and_assoc]

theorem BitMat.ident_mulVec (v : BitVec n) : (BitMat.ident : BitMat n).mulVec v = v := by
  apply BitVec.eq_of_getMsbD_eq
  intro r hr
  rw [BitMat.getMsbD_mulVec _ _ hr]
  rw [xorBits_congr (g := fun c => decide (c = r) && v.getMsbD c), xorBits_single]
  · simp [hr]
  · intro c hc; rw [BitMat.bit_ident hr hc]; simp [eq_comm]

theorem BitMat.mulVec_xor (A : BitMat n) (u v : BitVec n) : A.mulVec (u ^^^ v) = A.mulVec u ^^^ A.mulVec v := by
  apply BitVec.eq_of_getMsbD_eq
  intro r hr
  rw [BitVec.getMsbD_xor, BitMat.getMsbD_mulVec _ _ hr, BitMat.getMsbD_mulVec _ _ hr, BitMat.getMsbD_mulVec _ _ hr,
    ← xorBits_xor]
  apply xorBits_congr
  intro c _
  rw [BitVec.getMsbD_xor]
  cases A.bit r c <;> simp

/-! ### Blocks -/

theorem shiftBlock_bit (k : Int) {i j : Nat} (hi : i < 32) (hj : j < 32) :
    (shiftBlock k).bit i j = decide ((j : Int) = (i : Int) + k) := BitMat.bit_ofBits _ hi hj

/-- What MBLK leaves at each position (R168). -/
theorem bit_placeBlock (mode : BlockMode) {bi bj : Nat} (P : Block) (A : Matrix) {r c : Nat} (hr : r < 128)
    (hc : c < 128) (hbj : bj < 4) :
    (placeBlock mode bi bj P A).bit r c =
      if r / 32 = bi ∧ c / 32 = bj then
        (match mode with
          | .set => P.bit (r % 32) (c % 32)
          | .xor => A.bit r c ^^ P.bit (r % 32) (c % 32))
      else A.bit r c := by
  rw [placeBlock, BitMat.bit_ofRows _ hr]
  by_cases h : r / 32 = bi
  · by_cases h' : c / 32 = bj
    · subst h h'
      have e : 32 * (c / 32) + c % 32 = c := by omega
      cases mode
      · simp [getMsbD_setRowWord _ _ _ hc, BitMat.bit]
      · simp [getMsbD_setRowWord _ _ _ hc, BitMat.bit, getMsbD_rowWord _ hbj (Nat.mod_lt c (by omega)), e]
    · simp [h, h', getMsbD_setRowWord _ _ _ hc, BitMat.bit]
  · simp [h, BitMat.bit]

end Sys2Proof
end

