-- ==== Sys2Proof/Laws/Exec.lean ====
section
/-! SUPPORT. Each command as an update of the state: the index check gone, the shared operations unfolded once. -/

namespace Sys2Proof.Machine

variable (s : State)

theorem exec_nop : exec .nop s = .next (s.complete .ok) := rfl

theorem exec_stepf : exec .stepf s = .next (((s.setGen (fwd s.gen).1).setOut (fwd s.gen).2).complete .ok) := rfl

theorem exec_stepb : exec .stepb s = .next ((s.setGen (bwd s.gen)).complete .ok) := rfl

theorem exec_stepn : exec .stepn s =
    .next (((s.setGen (fwdN s.argCount (s.gen, s.out)).1).setOut (fwdN s.argCount (s.gen, s.out)).2).complete .ok) := rfl

theorem exec_mzero (rd : MatReg) : exec (.mzero rd) s = .next ((s.setMat rd BitMat.zero).complete .ok) := by
  simp only [exec, execMzero, withRegs_eq]; rfl

theorem exec_mident (rd : MatReg) : exec (.mident rd) s = .next ((s.setMat rd BitMat.ident).complete .ok) := by
  simp only [exec, execMident, withRegs_eq]; rfl

theorem exec_mtr (rd : MatReg) : exec (.mtr rd) s = .next ((s.setMat rd trMatrix).complete .ok) := by
  simp only [exec, execMtr, withRegs_eq]; rfl

theorem exec_mblk (mode : BlockMode) (rd : MatReg) (bi bj : BlockIdx) (kind : BlockKind) :
    exec (.mblk mode rd bi bj kind) s =
      .next ((s.setMat rd (placeBlock mode bi.val bj.val kind.block (s.mat rd))).complete .ok) := by
  simp only [exec, execMblk, withRegs_eq]; rfl

theorem exec_mxor (rd ra rb : MatReg) :
    exec (.mxor rd ra rb) s = .next ((s.setMat rd ((s.mat ra).add (s.mat rb))).complete .ok) := by
  simp only [exec, execMxor, withRegs_eq]; rfl

theorem exec_mmul (rd ra rb : MatReg) :
    exec (.mmul rd ra rb) s = .next ((s.setMat rd ((s.mat ra).mul (s.mat rb))).complete .ok) := by
  simp only [exec, execMmul, withRegs_eq]; rfl

theorem exec_mpow (rd ra : MatReg) :
    exec (.mpow rd ra) s = .next ((s.setMat rd ((s.mat ra).pow s.argCount)).complete .ok) := by
  simp only [exec, execMpow, withRegs_eq]; rfl

theorem exec_mtrn (rd ra : MatReg) :
    exec (.mtrn rd ra) s = .next ((s.setMat rd (s.mat ra).transpose).complete .ok) := by
  simp only [exec, execMtrn, withRegs_eq]; rfl

theorem exec_meq (ra rb : MatReg) :
    exec (.meq ra rb) s = .next ((s.setEq (eqFlagOf (s.mat ra) (s.mat rb))).complete .ok) := by
  simp only [exec, execMeq, withRegs_eq]; rfl

theorem exec_mapply (ra : MatReg) :
    exec (.mapply ra) s = .next ((s.setGen (unvec ((s.mat ra).mulVec s.gen.vec))).complete .ok) := by
  simp only [exec, execMapply, withRegs_eq]; rfl

theorem exec_mrows_ok (ra : MatReg) (h : s.ngapCount ≤ 64) :
    exec (.mrows ra) s = .next (((s.setEqns (recordLoop (s.mat ra) s.gap s.ngapCount 0 (s.mat ra) s.eqns)).setNrows
      (BitVec.ofNat 16 (4 * s.ngapCount))).complete .ok) := by
  simp only [exec, execMrows, withRegs_eq, (ngapOk_iff _).2 h, if_true]; rfl

theorem exec_mrows_bad (ra : MatReg) (h : 64 < s.ngapCount) : exec (.mrows ra) s = .next (s.complete .badArg) := by
  have h' : ngapOk s.ngapCount = false := by rw [← Bool.not_eq_true, ngapOk_iff]; omega
  simp only [exec, execMrows, withRegs_eq, h']
  rfl

theorem exec_solve_bad (h : 256 < s.nrowsCount) : exec .solve s = .next (s.complete .badArg) := by
  have h' : nrowsOk s.nrowsCount = false := by rw [← Bool.not_eq_true, nrowsOk_iff]; omega
  simp only [exec, execSolve, h']
  rfl

theorem exec_solve_singular (h : s.nrowsCount ≤ 256) {c : Nat}
    (e : forwardFrom 128 0 (s.system s.nrowsCount) = .error c) :
    exec .solve s = .next (((s.setRankCol (BitVec.ofNat 8 c)).setIncon false).complete .singular) := by
  simp only [exec, execSolve, (nrowsOk_iff _).2 h, if_true, e]
  rfl

theorem exec_solve_ok (h : s.nrowsCount ≤ 256) {A : EqSystem}
    (e : forwardFrom 128 0 (s.system s.nrowsCount) = .ok A) :
    exec .solve s = .next ((((s.setGen (unvec (solution (backFrom 128 A)))).setIncon (inconOf (backFrom 128 A))).setRankCol
      128).complete .ok) := by
  simp only [exec, execSolve, (nrowsOk_iff _).2 h, if_true, e]
  rfl

end Sys2Proof.Machine
end

