-- ==== Sys2Proof/Laws/PerInstr.lean ====
section
/-! SUPPORT. Facts said of each command as syntax, one lemma per constructor (LAWS.json). -/

namespace Sys2Proof.Laws.EncodeShape

/-- The encoding of a command carries its opcode in [31:24] and has 0 in every reserved bit of its format (R101, R102, R106). -/
def Statement (i : Instr) : Prop :=
  opField (encode i) = i.opcode.bits ∧ encode i &&& i.opcode.format.reserved = 0

theorem nop : Statement .nop := ⟨opField_pack .., pack_f0 ..⟩
theorem stepf : Statement .stepf := ⟨opField_pack .., pack_f0 ..⟩
theorem stepb : Statement .stepb := ⟨opField_pack .., pack_f0 ..⟩
theorem stepn : Statement .stepn := ⟨opField_pack .., pack_f0 ..⟩

theorem mzero (rd : MatReg) : Statement (.mzero rd) := ⟨opField_pack .., pack_fd ..⟩

theorem mident (rd : MatReg) : Statement (.mident rd) := ⟨opField_pack .., pack_fd ..⟩

theorem mtr (rd : MatReg) : Statement (.mtr rd) := ⟨opField_pack .., pack_fd ..⟩

theorem mblk (mode : BlockMode) (rd : MatReg) (bi bj : BlockIdx) (kind : BlockKind) : Statement (.mblk mode rd bi bj kind) :=
  ⟨opField_packBlk .., packBlk_reserved ..⟩

theorem mxor (rd ra rb : MatReg) : Statement (.mxor rd ra rb) := ⟨opField_pack .., pack_fdab ..⟩

theorem mmul (rd ra rb : MatReg) : Statement (.mmul rd ra rb) := ⟨opField_pack .., pack_fdab ..⟩

theorem mpow (rd ra : MatReg) : Statement (.mpow rd ra) := ⟨opField_pack .., pack_fda ..⟩

theorem mtrn (rd ra : MatReg) : Statement (.mtrn rd ra) := ⟨opField_pack .., pack_fda ..⟩

theorem meq (ra rb : MatReg) : Statement (.meq ra rb) := ⟨opField_pack .., pack_fab ..⟩

theorem mapply (ra : MatReg) : Statement (.mapply ra) := ⟨opField_pack .., pack_fa ..⟩

theorem mrows (ra : MatReg) : Statement (.mrows ra) := ⟨opField_pack .., pack_fa ..⟩

theorem solve : Statement .solve := ⟨opField_pack .., pack_f0 ..⟩

end Sys2Proof.Laws.EncodeShape
end

