-- ==== Sys2Proof/Laws/Solver.lean ====
section
/-! SUPPORT. The elimination: what each move of FORWARD and BACK leaves in each row (R221, R222). -/

namespace Sys2Proof

@[simp] theorem length_swapEqns (A : EqSystem) (c p : Nat) : (swapEqns A c p).length = A.length := by simp [swapEqns]
@[simp] theorem length_elimBelow (A : EqSystem) (c : Nat) : (elimBelow A c).length = A.length := by simp [elimBelow]
@[simp] theorem length_backCol (A : EqSystem) (c : Nat) : (backCol A c).length = A.length := by simp [backCol]

theorem eqnAt_of_ge {A : EqSystem} {r : Nat} (h : A.length ≤ r) : eqnAt A r = ⟨0, false⟩ := by simp [eqnAt, h]

theorem coefAt_of_ge {A : EqSystem} {r : Nat} (h : A.length ≤ r) (c : Nat) : coefAt A r c = false := by
  simp [coefAt, eqnAt_of_ge h]

theorem eqnAt_eq_getElem {A : EqSystem} {r : Nat} (h : r < A.length) : eqnAt A r = A[r] := by simp [eqnAt, h]

/-- Systems of one length with equal rows are equal. -/
theorem EqSystem.ext_rows {A B : EqSystem} (hl : A.length = B.length) (h : ∀ r, eqnAt A r = eqnAt B r) : A = B := by
  apply List.ext_getElem hl
  intro r h1 h2
  rw [← eqnAt_eq_getElem h1, ← eqnAt_eq_getElem h2, h r]

/-! ### The pivot search -/

/-- The pivot is a row of the system at or below c with a 1 in column c, and no such row stands above it (R221, D15). -/
theorem findPivot_some {A : EqSystem} {c p : Nat} (h : findPivot A c = some p) :
    p < A.length ∧ c ≤ p ∧ coefAt A p c = true ∧ ∀ r, c ≤ r → r < p → coefAt A r c = false := by
  have h1 := List.find?_some h
  have h2 := List.mem_of_find?_eq_some h
  simp only [Bool.and_eq_true, decide_eq_true_eq] at h1
  refine ⟨List.mem_range.1 h2, h1.1, h1.2, fun r hc hr => ?_⟩
  have h3 := (List.find?_range_eq_some.1 h).2.2 r hr
  simpa [hc] using h3

/-- No pivot means no row at or below c has a 1 in column c (R221). -/
theorem findPivot_none {A : EqSystem} {c : Nat} (h : findPivot A c = none) :
    ∀ r, c ≤ r → coefAt A r c = false := by
  intro r hc
  by_cases hr : r < A.length
  · have := List.find?_eq_none.1 h r (List.mem_range.2 hr)
    simpa [hc] using this
  · exact coefAt_of_ge (by omega) c

/-! ### The moves -/

theorem eqnAt_swapEqns {A : EqSystem} {c p : Nat} (hc : c < A.length) (hp : p < A.length) (r : Nat) :
    eqnAt (swapEqns A c p) r = if r = p then eqnAt A c else if r = c then eqnAt A p else eqnAt A r := by
  simp only [eqnAt, swapEqns, List.getElem?_set, List.length_set]
  by_cases h1 : r = p
  · subst h1; simp [hp]
  · by_cases h2 : r = c
    · subst h2; simp [h1, Ne.symm h1, hc]
    · simp [h1, h2, Ne.symm h1, Ne.symm h2]

theorem eqnAt_elimBelow (A : EqSystem) (c r : Nat) :
    eqnAt (elimBelow A c) r =
      if c < r ∧ coefAt A r c = true then (eqnAt A r).add (eqnAt A c) else eqnAt A r := by
  by_cases h : r < A.length
  · simp [eqnAt, coefAt, elimBelow, h]
  · rw [eqnAt_of_ge (by simpa using h), coefAt_of_ge (by omega), eqnAt_of_ge (by omega)]; simp

theorem eqnAt_backCol (A : EqSystem) (c r : Nat) :
    eqnAt (backCol A c) r =
      if r < c ∧ coefAt A r c = true then (eqnAt A r).add (eqnAt A c) else eqnAt A r := by
  by_cases h : r < A.length
  · simp [eqnAt, coefAt, backCol, h]
  · rw [eqnAt_of_ge (by simpa using h), coefAt_of_ge (by omega), eqnAt_of_ge (by omega)]; simp

/-! ### The loops -/

theorem forwardCol_ok {A B : EqSystem} {c : Nat} (h : forwardCol A c = .ok B) :
    ∃ p, findPivot A c = some p ∧ B = elimBelow (swapEqns A c p) c := by
  unfold forwardCol at h
  cases e : findPivot A c with
  | none => simp [e] at h
  | some p => exact ⟨p, rfl, by simpa [e] using h.symm⟩

theorem forwardCol_error {A : EqSystem} {c e : Nat} (h : forwardCol A c = .error e) :
    e = c ∧ findPivot A c = none := by
  unfold forwardCol at h
  cases e' : findPivot A c with
  | none => exact ⟨by simpa [e'] using h.symm, rfl⟩
  | some p => simp [e'] at h

theorem forwardFrom_succ (k c : Nat) (A : EqSystem) :
    forwardFrom (k + 1) c A = (match forwardCol A c with | .error e => .error e | .ok A' => forwardFrom k (c + 1) A') := rfl

/-- An error of FORWARD names one of the columns it went over. -/
theorem forwardFrom_error_lt {k c e : Nat} {A : EqSystem} (h : forwardFrom k c A = .error e) : c ≤ e ∧ e < c + k := by
  induction k generalizing c A with
  | zero => simp [forwardFrom] at h
  | succ k ih =>
    rw [forwardFrom_succ] at h
    cases h1 : forwardCol A c with
    | error e' =>
      simp only [h1, Except.error.injEq] at h
      have := (forwardCol_error h1).1
      omega
    | ok A' =>
      simp only [h1] at h
      have := ih h
      omega

theorem length_backFrom (k : Nat) (A : EqSystem) : (backFrom k A).length = A.length := by
  induction k generalizing A with
  | zero => rfl
  | succ k ih => rw [backFrom, ih, length_backCol]

@[simp] theorem getMsbD_solution (A : EqSystem) {c : Nat} (h : c < 128) : (solution A).getMsbD c = (eqnAt A c).rhs := by
  simp [solution, h]

/-- FORWARD leaves a system alone whose coefficient rows are those of the identity. -/
theorem forwardFrom_ident {A : EqSystem} (hI : ∀ r c, c < 128 → coefAt A r c = decide (r = c ∧ r < 128)) :
    ∀ k c, c + k ≤ 128 → 128 ≤ A.length → forwardFrom k c A = .ok A := by
  intro k
  induction k with
  | zero => intros; rfl
  | succ k ih =>
    intro c hk hn
    have hp : findPivot A c = some c := by
      cases e : findPivot A c with
      | none =>
        have := findPivot_none e c (Nat.le_refl c)
        rw [hI c c (by omega)] at this
        simp at this; omega
      | some p =>
        have := (findPivot_some e).2.2.1
        rw [hI p c (by omega)] at this
        simp at this
        rw [this.1]
    have hA : elimBelow (swapEqns A c c) c = A := by
      have hs : ∀ r, eqnAt (swapEqns A c c) r = eqnAt A r := by
        intro r
        rw [eqnAt_swapEqns (by omega) (by omega)]
        by_cases h : r = c <;> simp [h]
      apply EqSystem.ext_rows (by simp)
      intro r
      rw [eqnAt_elimBelow, if_neg, hs]
      rintro ⟨h1, h2⟩
      rw [coefAt, hs, ← coefAt, hI r c (by omega)] at h2
      simp at h2; omega
    rw [forwardFrom_succ]
    simp only [forwardCol, hp, hA]
    exact ih (c + 1) (by omega) hn

namespace Machine

@[simp] theorem length_system (s : State) (n : Nat) : (s.system n).length = n := by simp [State.system]

theorem eqnAt_system (s : State) {n r : Nat} (h : r < n) : eqnAt (s.system n) r = ⟨s.eqn r, s.rhsBit r⟩ := by
  simp [eqnAt, State.system, h]

/-! ### The exchange of two rows -/

theorem exchange_pivot (ord : Nat → Nat) (c p : Nat) : exchange ord c p c = ord p := by simp [exchange]

theorem exchange_displaced (ord : Nat → Nat) (c p : Nat) : exchange ord c p p = ord c := by
  by_cases h : p = c <;> simp [exchange, h]

theorem exchange_of_ne (ord : Nat → Nat) {c p r : Nat} (h : r ≠ c) (h' : r ≠ p) : exchange ord c p r = ord r := by
  simp [exchange, h, h']

/-- The swap of FORWARD is the exchange of the two rows (R221). -/
theorem eqnAt_swapEqns_exchange {A : EqSystem} {c p : Nat} (hc : c < A.length) (hp : p < A.length) (r : Nat) :
    eqnAt (swapEqns A c p) r = eqnAt A (exchange id c p r) := by
  rw [eqnAt_swapEqns hc hp]
  by_cases h1 : r = p
  · rw [h1, exchange_displaced, if_pos rfl, id]
  · by_cases h2 : r = c
    · rw [h2, exchange_pivot, if_neg (h2 ▸ h1), if_pos rfl, id]
    · rw [exchange_of_ne _ h2 h1, if_neg h1, if_neg h2, id]

end Machine

end Sys2Proof
end

