-- ==== Sys2Proof/Laws/Step.lean ====
section
/-! SUPPORT. What a step can be: idle, the engine's transition, or one host event. -/

namespace Sys2Proof.Machine

/-- Every step is one of four: nothing to do; the engine's transition for the pending word; a host event with no command
pending; a host event while a command is pending and its wait is not over (R18, R19, R82). -/
theorem step_cases (s : State) :
    (s.inbox = [] ∧ s.pending = none ∧ step s = .next s) ∨
    (∃ p, s.pending = some p ∧ (s.inbox = [] ∨ p.wait = 0) ∧ step s = engineStep p.word s) ∨
    (∃ op rest, s.inbox = op :: rest ∧ s.pending = none ∧ step s = busEvent op (s.setInbox rest)) ∨
    (∃ op rest p, s.inbox = op :: rest ∧ s.pending = some p ∧ p.wait ≠ 0 ∧
      step s = busEvent op ((s.setInbox rest).setPending (some p.tick))) := by
  simp only [step, systemStep]
  cases hi : s.inbox with
  | nil =>
    cases hp : s.pending with
    | none => exact .inl ⟨rfl, rfl, rfl⟩
    | some p => exact .inr (.inl ⟨p, rfl, .inl rfl, rfl⟩)
  | cons op rest =>
    cases hp : s.pending with
    | none => exact .inr (.inr (.inl ⟨op, rest, rfl, rfl, rfl⟩))
    | some p =>
      by_cases hw : p.wait = 0
      · exact .inr (.inl ⟨p, rfl, .inr hw, by simp [hw]⟩)
      · exact .inr (.inr (.inr ⟨op, rest, p, rfl, rfl, hw, by simp [hw]⟩))

/-- The engine's transition is the decoded command, or BADCMD for an illegal word. -/
theorem engineStep_cases (w : Word) (s : State) :
    (∃ i, decode w = .ok i ∧ engineStep w s = exec i s) ∨
    (∃ e, decode w = .error e ∧ engineStep w s = .next (s.complete .badCmd)) := by
  simp only [engineStep]
  cases h : decode w with
  | ok i => exact .inl ⟨i, rfl, rfl⟩
  | error e => exact .inr ⟨e, rfl, rfl⟩

/-- No step, and one step more, of the machine the host runs. -/
theorem run_zero (s : State) : Host.Core.run Sys2Proof.core 0 s = .next s := rfl

theorem run_succ_of (M : Host.Core) (k : Nat) {s t : M.State} (h : M.step s = .next t) : M.run (k + 1) s = M.run k t := by
  simp only [Host.Core.run, h]

theorem run_succ (k : Nat) {s t : State} (h : step s = .next t) :
    Host.Core.run Sys2Proof.core (k + 1) s = Host.Core.run Sys2Proof.core k t := run_succ_of Sys2Proof.core k h

end Sys2Proof.Machine
end

