-- ==== Sys2Proof/Tests/Slice0.lean ====
section
/-! SUPPORT. Tests: words written out from the encoding tables, one step per command against the vectors of
`95_test_vectors.md` (derived there from the rules, not from this model), refusals of ill-formed terms, and for every statement with
hypotheses a state that meets them. -/

namespace Sys2Proof.Tests

open Sys2Proof.Machine

/-- A field of the state a result leaves. -/
def after {α : Type} (r : Result) (f : State → α) : Option α :=
  match r with
  | .next t => some (f t)
  | .fault _ => none
  | .refused _ => none

/-- The fixture state F of `95_test_vectors.md`. -/
def fixture : GenState := ⟨0x12345678, 0x9ABCDEF0, 0x0F0F0F0F, 0xFF00FF00⟩

/-- Reset, then S = g. -/
def withGen (g : GenState) : State := State.reset.setGen g

/-- One step of the engine for a command word. -/
def run (s : State) (w : Nat) : Result := step (s.withFetchWord 32 w)

/-- The address map's registers after a write of one word. -/
def wrote (s : State) (a : BitVec 16) (v : Word) : Result := busEvent (.write .word a v) s

/-- Equations whose first 128 rows are those of I and whose row 128 repeats row 0 (V-S1, V-S12). -/
def identRows : Vector Row 256 :=
  Vector.ofFn fun r => (BitMat.ident : Matrix).row (if r.val = 128 then 0 else r.val)

/-- The system of V-S1: NROWS = 128 rows of I, with right-hand sides all 0. -/
def identSystem (n : BitVec 16) : State :=
  ((State.reset.setEqns identRows).setNrows n).setRhs (Vector.ofFn fun r => decide (r.val = 128))

/-! ### Well-formedness: the shift amount has two bounds (R103, R105) -/

theorem test_wf_refuses_shift_above : (Instr.mblk .set 2 0 0 (.shift 128)).wf = false := by decide
theorem test_wf_refuses_shift_below : (Instr.mblk .set 2 0 0 (.shift (-129))).wf = false := by decide
theorem test_wf_accepts_shift_bounds :
    (Instr.mblk .set 2 0 0 (.shift 127)).wf = true ∧ (Instr.mblk .xor 2 0 0 (.shift (-128))).wf = true := by decide

/-! ### Decoding: words written out bit by bit from the patterns of R102 and R103 -/

theorem test_decode_nop : decode 0b00000000_0000_0000_0000_000000000000 = .ok .nop := by rfl
theorem test_decode_stepf : decode 0b00000001_0000_0000_0000_000000000000 = .ok .stepf := by rfl
theorem test_decode_stepb : decode 0b00000010_0000_0000_0000_000000000000 = .ok .stepb := by rfl
theorem test_decode_stepn : decode 0b00000011_0000_0000_0000_000000000000 = .ok .stepn := by rfl
theorem test_decode_mzero : decode 0b00010000_1111_0000_0000_000000000000 = .ok (.mzero 15) := by rfl
theorem test_decode_mident : decode 0b00010001_0111_0000_0000_000000000000 = .ok (.mident 7) := by rfl
theorem test_decode_mtr : decode 0b00010010_1010_0000_0000_000000000000 = .ok (.mtr 10) := by rfl
theorem test_decode_mblk_xor_shift :
    decode 0b00010011_0001_11_10_10_1_00000_11101101 = .ok (.mblk .xor 1 3 2 (.shift (-19))) := by rfl
theorem test_decode_mblk_set_ident :
    decode 0b00010011_0001_00_01_01_0_00000_00000000 = .ok (.mblk .set 1 0 1 .ident) := by rfl
theorem test_decode_mblk_xor_zero :
    decode 0b00010011_0010_00_00_00_1_00000_00000000 = .ok (.mblk .xor 2 0 0 .zero) := by rfl
theorem test_decode_mxor : decode 0b00010100_0100_0010_0011_000000000000 = .ok (.mxor 4 2 3) := by rfl
theorem test_decode_mmul : decode 0b00010101_0011_0001_0010_000000000000 = .ok (.mmul 3 1 2) := by rfl
theorem test_decode_mpow : decode 0b00010110_0001_0010_0000_000000000000 = .ok (.mpow 1 2) := by rfl
theorem test_decode_mtrn : decode 0b00010111_0101_0100_0000_000000000000 = .ok (.mtrn 5 4) := by rfl
theorem test_decode_meq : decode 0b00011000_0000_0010_0011_000000000000 = .ok (.meq 2 3) := by rfl
theorem test_decode_mapply : decode 0b00011001_0000_0001_0000_000000000000 = .ok (.mapply 1) := by rfl
theorem test_decode_mrows : decode 0b00011010_0000_0111_0000_000000000000 = .ok (.mrows 7) := by rfl
theorem test_decode_solve : decode 0b00100000_0000_0000_0000_000000000000 = .ok .solve := by rfl

/-- The rejections of `95_test_vectors.md` §2.5, each by its case of R107. -/
theorem test_decode_rejects :
    decode 0x04000000 = .error .unassignedOpcode ∧ decode 0x21000000 = .error .unassignedOpcode ∧
    decode 0xFFFFFFFF = .error .unassignedOpcode ∧ decode 0x00800000 = .error .reservedBit ∧
    decode 0x10010000 = .error .reservedBit ∧ decode 0x16000800 = .error .reservedBit ∧
    decode 0x18100000 = .error .reservedBit ∧ decode 0x13000100 = .error .reservedBit ∧
    decode 0x1300C000 = .error .reservedKind ∧ decode 0x13004001 = .error .shiftAmountWithoutShift := by
  refine ⟨?_, ?_, ?_, ?_, ?_, ?_, ?_, ?_, ?_, ?_⟩ <;> rfl

/-- Encodings of R111. -/
theorem test_encode_words :
    encode (.mblk .xor 1 3 3 (.shift (-19))) = 0x131FA0ED ∧ encode (.mblk .set 2 0 0 (.shift (-128))) = 0x13208080 ∧
    encode (.mxor 1 1 4) = 0x14114000 ∧ encode (.meq 0 1) = 0x18001000 ∧ encode .solve = 0x20000000 := by decide

/-- Assembler text of R111. -/
theorem test_text :
    (Instr.mblk .xor 1 3 3 (.shift (-19))).text = "MBLK.xor m1, 3, 3, shift(-19)" ∧ (Instr.meq 0 1).text = "MEQ m0, m1" := by
  decide

/-! ### One step per command -/

/-- V-T20: NOP clears ERR and keeps OVR. -/
theorem test_nop :
    after (run { State.reset with err := 1, ovr := true } 0x00000000) (fun t => (t.err, t.ovr)) = some (0, true) := by decide

/-- V-T1. -/
theorem test_stepf :
    after (run (withGen fixture) 0x01000000) (fun t => (t.gen, t.out)) =
      some (⟨0x9ABCDEF0, 0x0F0F0F0F, 0xFF00FF00, 0x4F37F10E⟩, 0x4F37F10E) := by decide

/-- V-T6: the bit shifted out by << 11 is lost. -/
theorem test_stepf_top_bit :
    after (run (withGen ⟨0x80000000, 0, 0, 0⟩) 0x01000000) (fun t => t.gen) = some ⟨0, 0, 0, 0x80800000⟩ := by decide

/-- V-T3; OUT is unchanged. -/
theorem test_stepb :
    after (run ((withGen fixture).setOut 7) 0x02000000) (fun t => (t.gen, t.out)) =
      some (⟨0xB0880EE0, 0x12345678, 0x9ABCDEF0, 0x0F0F0F0F⟩, 7) := by decide

/-- V-T7b. -/
theorem test_stepb_top_bit :
    after (run (withGen ⟨0, 0, 0, 0x80000000⟩) 0x02000000) (fun t => t.gen) = some ⟨0xA4848080, 0, 0, 0⟩ := by decide

/-- V-T15. -/
theorem test_stepn :
    after (run ((withGen fixture).setArg 5) 0x03000000) (fun t => (t.gen, t.out)) =
      some (⟨0x3300ED46, 0x4400EB5E, 0xBC00E421, 0x4C4FCD2E⟩, 0x4C4FCD2E) := by decide

/-- V-T11: ARG = 0 keeps S and OUT. -/
theorem test_stepn_zero :
    after (run ((withGen fixture).setOut 7) 0x03000000) (fun t => (t.gen, t.out)) = some (fixture, 7) := by decide

theorem test_mzero :
    after (run State.reset 0x10100000) (fun t => ((t.mat 1).row 0, (t.mat 1).row 127)) = some (0, 0) := by decide +kernel

/-- R165's example. -/
theorem test_mident :
    after (run State.reset 0x11700000) (fun t => ((t.mat 7).row 0, (t.mat 7).row 127)) =
      some (0x80000000000000000000000000000000, 0x00000000000000000000000000000001) := by decide +kernel

/-- V-M2: rows 0, 107 and 124 of Tr. -/
theorem test_mtr :
    after (run State.reset 0x12000000) (fun t => ((t.mat 0).row 0, (t.mat 0).row 107, (t.mat 0).row 124)) =
      some (0x00000000800000000000000000000000, 0x10120200000000000000000000100000, 0x00000809000000000000000000400008) := by
  decide +kernel

/-- V-M4: row 32 of shift(1) in block (1, 2). -/
theorem test_mblk_set :
    after (run (State.reset.setMat 2 BitMat.zero) 0x13268001) (fun t => ((t.mat 2).row 32, (t.mat 2).row 63, (t.mat 2).row 0)) =
      some (0x00000000000000004000000000000000, 0, 0) := by decide +kernel

/-- R168's corner case: XOR of ident onto an identity block clears its diagonal; other blocks keep theirs. -/
theorem test_mblk_xor :
    after (run (State.reset.setMat 2 BitMat.ident) 0x132F6000) (fun t => ((t.mat 2).row 127, (t.mat 2).row 0)) =
      some (0, 0x80000000000000000000000000000000) := by decide +kernel

/-- V-M5: row 0 of I XOR Tr. -/
theorem test_mxor :
    after (run ((State.reset.setMat 2 BitMat.ident).setMat 3 trMatrix) 0x14423000) (fun t => (t.mat 4).row 0) =
      some 0x80000000800000000000000000000000 := by decide +kernel

/-- V-M3: row 127 of Tr². -/
theorem test_mmul :
    after (run (State.reset.setMat 0 trMatrix) 0x15600000) (fun t => (t.mat 6).row 127) =
      some 0x08090001000001010000000000000001 := by decide +kernel

/-- V-M5: the product does not commute; row 0 of Tr^T·Tr. -/
theorem test_mmul_order :
    after (run ((State.reset.setMat 0 trMatrix).setMat 5 trMatrix.transpose) 0x15B50000) (fun t => (t.mat 11).row 0) =
      some 0x00801000000000000000000080800000 := by decide +kernel

/-- V-M5: ARG = 2, RD = RA; row 124 of Tr². -/
theorem test_mpow :
    after (run ((State.reset.setMat 0 trMatrix).setArg 2) 0x16000000) (fun t => (t.mat 0).row 124) =
      some 0x40480009000008090000000000000008 := by decide +kernel

/-- V-M5: ARG = 0 gives I. -/
theorem test_mpow_zero :
    after (run (State.reset.setMat 0 trMatrix) 0x16100000) (fun t => (t.mat 1).row 127) = some 1 := by decide +kernel

/-- V-M3: rows 0 and 127 of Tr^T. -/
theorem test_mtrn :
    after (run (State.reset.setMat 4 trMatrix) 0x17540000) (fun t => ((t.mat 5).row 0, (t.mat 5).row 127)) =
      some (0x00000000000000000000000080800000, 0x00000000000000000000000100000001) := by decide +kernel

/-- V-M5. -/
theorem test_meq_differs :
    after (run (((State.reset.setMat 0 BitMat.zero).setMat 5 BitMat.ident).setEq true) 0x18005000) (fun t => t.eqFlag) =
      some false := by decide +kernel

theorem test_meq_agrees :
    after (run ((State.reset.setMat 3 BitMat.ident).setMat 4 BitMat.ident) 0x18034000) (fun t => t.eqFlag) = some true := by
  decide +kernel

/-- V-M6: MAPPLY of Tr; OUT is not changed. -/
theorem test_mapply :
    after (run (((withGen fixture).setMat 1 trMatrix).setOut 7) 0x19010000) (fun t => (t.gen, t.out)) =
      some (⟨0x9ABCDEF0, 0x0F0F0F0F, 0xFF00FF00, 0x4F37F10E⟩, 7) := by decide +kernel

/-- V-R8: base I, NGAP = 1. -/
theorem test_mrows :
    after (run ((State.reset.setMat 7 BitMat.ident).setNgap 1) 0x1A070000) (fun t => (t.nrows, t.eqn 0, t.eqn 3)) =
      some (4, 8, 1) := by decide +kernel

/-- V-R4: NGAP = 65. -/
theorem test_mrows_badarg :
    after (run ((State.reset.setNgap 65).setNrows 9) 0x1A000000) (fun t => (t.statusWord, t.nrows)) = some (0x30, 9) := by decide

/-- V-S2: NROWS = 0. -/
theorem test_solve_singular :
    after (run ((withGen fixture).setIncon true) 0x20000000) (fun t => (t.statusWord, t.rankCol, t.gen)) =
      some (0x10, 0, fixture) := by decide

/-- V-S14: NROWS = 257. -/
theorem test_solve_badarg :
    after (run (((State.reset.setNrows 257).setRankCol 5).setIncon true) 0x20000000) (fun t => (t.err, t.rankCol, t.incon)) =
      some (3, 5, true) := by decide

/-- The moves of R221 on three rows: the lowest row with a 1 in the column is the pivot, is swapped up and eliminated below. -/
theorem test_forwardCol :
    (match forwardCol [⟨0, true⟩, ⟨0x80000000000000000000000000000001, true⟩, ⟨0x80000000000000000000000000000000, false⟩] 0 with
      | .ok A => A
      | .error _ => []) =
      [⟨0x80000000000000000000000000000001, true⟩, ⟨0, true⟩, ⟨1, true⟩] := by decide +kernel

/-- An illegal word (V-S17) changes ERR only. -/
theorem test_badcmd :
    after (run ((withGen fixture).setEq true) 0x20000001) (fun t => (t.statusWord, t.gen)) = some (0x22, fixture) := by decide

/-! ### The host interface (§2.6) -/

/-- V-H1. -/
theorem test_reset_registers :
    ([Loc.id, .cfg, .status, .gen 0, .gen 3, .out, .arg, .nrows, .ngap, .rankCol].map State.reset.peek) =
      [0x47463201, 0x10400100, 0, 0, 0, 0, 0, 0, 0, 0] := by decide

/-- V-H6. -/
theorem test_nrows_low_half : after (wrote State.reset 0x0014 0x12345678) (fun t => t.peek .nrows) = some 0x5678 := by decide

/-- V-H8: column 0 of E row 0. -/
theorem test_eqn_window :
    after (wrote (State.reset.setEqns (Vector.replicate 256 0)) 0x1000 0x80000000) (fun t => (t.eqn 0).getMsbD 0) = some true := by decide +kernel

/-- V-H9. -/
theorem test_rhs_window :
    after (wrote State.reset 0x2000 0x80000001) (fun t => (t.rhsBit 0, t.rhsBit 1, t.rhsBit 31)) = some (true, false, true) := by
  decide +kernel

/-- V-H10: offset 0x8FFC is word 3 of row 127 of M[1]. -/
theorem test_matrix_window :
    after (wrote (State.reset.setMat 1 BitMat.zero) 0x8FFC 1) (fun t => (t.mat 1).bit 127 127) = some true := by decide +kernel

/-- The same offset read back through the map. -/
theorem test_matrix_window_loc : Loc.ofOffset 0x8FFC = .mat 1 127 3 ∧ Loc.ofOffset 0x30FC = .gap 63 := by decide

/-- V-H12: a write to S0 while a command is pending is dropped and sets OVR. -/
theorem test_busy_write :
    after (step (((withGen fixture).setPending (some ⟨0, 2⟩)).setInbox [wrOp (.gen 0) 5]))
      (fun t => (t.gen.s0, t.statusWord, t.pending)) = some (0x12345678, 0x09, some ⟨0, 1⟩) := by decide

/-- V-H13. -/
theorem test_ovr_w1c : after (wrote (State.reset.setOvr true) 0x0008 0x00000008) (fun t => t.ovr) = some false := by decide

/-- V-H16. -/
theorem test_misaligned_refused :
    busEvent (.read .word 0x0002) State.reset = .refused .unsupportedAccess ∧
    busEvent (.write .byte 0x0010 1) State.reset = .refused .unsupportedAccess := ⟨rfl, rfl⟩

/-- A poll that reads BUSY = 1 is repeated, one that reads BUSY = 0 is over (R113). -/
theorem test_poll :
    after (step ((State.reset.setPending (some ⟨0, 1⟩)).setInbox [.poll])) (fun t => t.inbox) = some [.poll] ∧
    after (step (State.reset.setInbox [.poll])) (fun t => t.inbox) = some [] := by decide

/-- Reset ends with the registers of R53 and no pending command (R281). -/
theorem test_rst :
    after (busEvent (.rst true) ((withGen fixture).setPending (some ⟨0, 1⟩))) (fun t => (t.pending, t.rst)) = some (none, true) ∧
    after (busEvent (.rst false) ((withGen fixture).setRst true)) (fun t => (t.gen, t.rst)) = some (⟨0, 0, 0, 0⟩, false) := by
  decide

/-! ### Witnesses: each statement's hypotheses are met -/

theorem witness_DecodeOfEncode : (Instr.mblk .xor 15 3 3 (.shift (-128))).wf = true := by decide

theorem witness_EncodeOfDecode : decode 0x1320807F = .ok (.mblk .set 2 0 0 (.shift 127)) := by rfl

/-- A state with an illegal word pending, the host idle or the wait over. -/
theorem witness_IllegalWordRaisesBadCmd :
    ∃ (s : State) (p : Pending), s.pending = some p ∧ (s.inbox = [] ∨ p.wait = 0) ∧ ∀ i, decode p.word ≠ .ok i :=
  ⟨State.reset.setPending (some ⟨0x00000001, 3⟩), ⟨0x00000001, 3⟩, rfl, .inl rfl, fun i => by
    rw [show decode 0x00000001 = .error .reservedBit from rfl]; exact fun h => nomatch h⟩

theorem witness_StepRunsDecodedCommand :
    ∃ (s : State) (p : Pending) (i : Instr), s.pending = some p ∧ (s.inbox = [] ∨ p.wait = 0) ∧ decode p.word = .ok i :=
  ⟨(State.reset.setPending (some ⟨0x15312000, 0⟩)).setInbox [.poll], ⟨0x15312000, 0⟩, .mmul 3 1 2, rfl, .inr rfl, rfl⟩

/-- The host next to move: with nothing pending, and with a command pending whose wait is not over. -/
theorem witness_StepRunsDecodedCommand_host :
    (State.reset.setInbox [wrOp .arg 5]).pending = none ∧
    ((State.reset.setPending (some ⟨0, 1⟩)).setInbox [.poll]).pending = some ⟨0, 1⟩ ∧ (1 : Nat) ≠ 0 := ⟨rfl, rfl, by decide⟩

/-- The step performs the host's event and takes it off the list (R82). -/
theorem test_step_host_event :
    after (step (State.reset.setInbox [wrOp .arg 5, .poll])) (fun t => (t.arg, t.inbox)) = some (5, [.poll]) := by decide

theorem witness_ErrorsChangeNothingElse :
    after (engineStep 0x13004001 State.reset) (fun t => t.err) = some 2 ∧
    after (engineStep 0x20000000 (State.reset.setNrows 257)) (fun t => t.err) = some 3 ∧
    after (engineStep 0x20000000 State.reset) (fun t => t.err) = some 1 := by decide

theorem witness_CountLimitsRaiseBadArg : 64 < (State.reset.setNgap 65).ngap.toNat ∧ 256 < (State.reset.setNrows 257).nrows.toNat := by
  decide

theorem witness_NopClearsErrOnly :
    (0x00800000 : Word).extractLsb' 24 8 = 0x00 ∧ (0x00800000 : Word).extractLsb' 0 24 ≠ 0 := by decide

theorem witness_MpowMapplyEqualsStepn : (State.reset.setMat 3 trMatrix).mat 3 = trMatrix := by simp

theorem witness_ShiftBlockShiftsWords : (0 : Int) ≤ 31 ∧ (-31 : Int) < 0 ∧ (32 : Int) ≤ 32 ∧ (-32 : Int) ≤ -32 := by decide

theorem witness_MpowIsRepeatedMmul : (1 : MatReg) ≠ 0 := by decide

theorem witness_MrowsRecordsPowers :
    ((State.reset.setMat 0 trMatrix).setNgap 64).ngap.toNat ≤ 64 ∧ ((State.reset.setMat 0 trMatrix).setNgap 64).mat 0 = trMatrix ∧
    63 < ((State.reset.setMat 0 trMatrix).setNgap 64).ngap.toNat :=
  ⟨by decide, State.mat_setMat_self _ _ _, by decide⟩

/-! The identity system meets the hypotheses on SOLVE. -/

theorem eqn_identSystem (n : BitVec 16) {r : Nat} (h : r < 256) :
    (identSystem n).eqn r = (BitMat.ident : Matrix).row (if r = 128 then 0 else r) := by
  simp [identSystem, State.eqn, identRows, h]

theorem dot_ident (x : Row) {r : Nat} (h : r < 128) : dot ((BitMat.ident : Matrix).row r) x = x.getMsbD r := by
  have := BitMat.getMsbD_mulVec (BitMat.ident : Matrix) x h
  rw [BitMat.ident_mulVec] at this
  exact this.symm

theorem fullRank_identSystem {n : BitVec 16} (h : 128 ≤ n.toNat) : (identSystem n).FullRank := by
  intro x hx
  apply BitVec.eq_of_getMsbD_eq
  intro r hr
  have := hx r (show r < n.toNat by omega)
  rw [eqn_identSystem n (by omega), if_neg (by omega), dot_ident x hr] at this
  simpa using this

theorem witness_SolveDecidesRank_full :
    (identSystem 128).nrows.toNat ≤ 256 ∧ (identSystem 128).FullRank := ⟨by decide, fullRank_identSystem (by decide)⟩

theorem witness_SolveDecidesRank_deficient : State.reset.nrows.toNat ≤ 256 ∧ ¬ State.reset.FullRank :=
  ⟨by decide, fun h => absurd (h 1 (fun r hr => absurd hr (by simp [State.reset, State.resetWith]))) (by decide)⟩

theorem witness_SolveFindsTheSolution :
    (identSystem 128).nrows.toNat ≤ 256 ∧ (identSystem 128).FullRank ∧ (identSystem 128).Satisfies (GenState.vec ⟨0, 0, 0, 0⟩) := by
  refine ⟨by decide, fullRank_identSystem (by decide), fun r hr => ?_⟩
  have hr' : r < 128 := hr
  have hz : GenState.vec ⟨0, 0, 0, 0⟩ = 0 := by decide
  rw [eqn_identSystem _ (by omega), if_neg (by omega), dot_ident _ hr', hz]
  have : r < 256 := by omega
  have hne : r ≠ 128 := by omega
  simp [State.rhsBit, identSystem, this, hne]

theorem witness_InconTellsWhetherAllHold : ∃ t, exec .solve (identSystem 128) = .next t ∧ t.err = 0 := by
  refine ⟨_, exec_solve_ok _ (by decide) (forwardFrom_ident (fun r c hc => ?_) 128 0 (by omega) (by simp [State.nrowsCount,
    identSystem])), rfl⟩
  by_cases hr : r < 128
  · have h1 : r < (identSystem 128).nrowsCount := hr
    rw [coefAt, eqnAt_system _ h1, eqn_identSystem _ (by omega), if_neg (by omega)]
    have := BitMat.bit_ident hr hc
    simp only [BitMat.bit] at this
    simp [this, hr]
  · rw [coefAt_of_ge (by simp [State.nrowsCount, identSystem]; omega)]
    simp [hr]

theorem witness_RankColIsFirstDependentColumn : after (exec .solve State.reset) (fun t => t.err) = some 1 := by decide

theorem witness_TooFewRowsAreSingular : (State.reset.setNrows 127).nrows.toNat < 128 := by decide

theorem witness_ContradictingDuplicatesSetIncon :
    (identSystem 129).nrows.toNat ≤ 256 ∧ (identSystem 129).FullRank ∧ 0 < (identSystem 129).nrows.toNat ∧
    128 < (identSystem 129).nrows.toNat ∧ (identSystem 129).eqn 0 = (identSystem 129).eqn 128 ∧
    (identSystem 129).rhsBit 0 ≠ (identSystem 129).rhsBit 128 := by
  refine ⟨by decide, fullRank_identSystem (by decide), by decide, by decide, ?_, ?_⟩
  · rw [eqn_identSystem _ (by omega), eqn_identSystem _ (by omega), if_neg (by omega), if_pos rfl]
  · simp [State.rhsBit, identSystem]

theorem witness_CommandsWriteOnlyTheirRegisters : ∃ t, exec (.mmul 3 1 2) State.reset = .next t := ⟨_, exec_mmul ..⟩

/-- The last row MROWS writes with NGAP = 1 is row 3; row 4 is kept. -/
theorem witness_CommandsKeepOtherLocations :
    (∃ t, exec (.mrows 0) (State.reset.setNgap 1) = .next t) ∧
    (Instr.mrows 0).mayWrite (State.reset.setNgap 1) (Loc.ofOffset 0x1040) = false ∧
    (Instr.mrows 0).mayWrite (State.reset.setNgap 1) (Loc.ofOffset 0x103C) = true :=
  ⟨⟨_, exec_mrows_ok _ _ (by decide)⟩, by decide, by decide⟩

/-- A state with a command pending meets the hypotheses of the statements about busy accesses, for each location named. -/
theorem witness_busy_accesses :
    (State.reset.setPending (some ⟨0, 5⟩)).rst = false ∧ (State.reset.setPending (some ⟨0, 5⟩)).busy = true ∧
    (State.reset.setPending (some ⟨0, 5⟩)).err.toNat ≤ 3 ∧
    Loc.ofOffset 0x0000 = .id ∧ Loc.ofOffset 0x0004 = .cfg ∧ Loc.ofOffset 0x0008 = .status ∧
    Loc.ofOffset 0xFFFC = .mat 15 127 3 := by decide

/-- The reset state meets the hypotheses of the statements about accesses while BUSY = 0. -/
theorem witness_idle_accesses :
    State.reset.rst = false ∧ State.reset.busy = false ∧ State.reset.err.toNat ≤ 3 ∧ (Loc.ofOffset 0x1FFC).writable = true ∧
    (Loc.ofOffset 0x0030).writable = false ∧ (0x1FFC : BitVec 16).toNat % 4 = 0 := by decide

theorem witness_AccessesAreIdempotent :
    busEvent (.read .word 0x0010) State.reset = .next { State.reset with rdata := 0 } ∧
    busEvent (.write .word 0x0010 5) State.reset = .next { State.reset with arg := 5 } ∧ Loc.ofOffset 0x0010 ≠ .cmd :=
  ⟨rfl, rfl, by decide⟩

/-- The ends of the three reserved ranges. -/
theorem witness_ReservedOffsetsReadZero :
    [0x0034, 0x0FFC, 0x2020, 0x2FFC, 0x3100, 0x7FFC].map Loc.ofOffset =
      [.reserved, .reserved, .reserved, .reserved, .reserved, .reserved] := by decide

theorem witness_UnsupportedAccessIsRefused : AccessSize.half ≠ .word ∧ (0x0002 : BitVec 16).toNat % 4 ≠ 0 := by decide

/-- The last word of each window, by the offsets of R74–R77. -/
theorem witness_AddressMapAndBitOrder :
    State.reset.rst = false ∧ State.reset.busy = false ∧
    Loc.ofOffset (BitVec.ofNat 16 (0x1000 + 16 * 255 + 4 * 3)) = .eqn 255 3 ∧
    Loc.ofOffset (BitVec.ofNat 16 (0x2000 + 4 * 7)) = .rhs 7 ∧ Loc.ofOffset (BitVec.ofNat 16 (0x3000 + 4 * 63)) = .gap 63 ∧
    Loc.ofOffset (BitVec.ofNat 16 (0x8000 + 0x800 * 15 + 16 * 127 + 4 * 3)) = .mat 15 127 3 ∧
    Loc.ofOffset (BitVec.ofNat 16 0x0030) = .out := by decide

/-- Idle reads of S1, OUT and a gap entry return what they hold. -/
theorem test_read_idle :
    after (busEvent (.read .word 0x0024) (withGen fixture)) (fun t => t.rdata) = some 0x9ABCDEF0 ∧
    after (busEvent (.read .word 0x0030) (State.reset.setOut 7)) (fun t => t.rdata) = some 7 ∧
    after (busEvent (.read .word 0x30FC) (State.reset.setGaps (Vector.replicate 64 9))) (fun t => t.rdata) = some 9 := by decide

/-- Each case of a poll: BUSY = 1, BUSY = 0, and a reserved ERR code. -/
theorem witness_PollReadsStatusWhileBusy :
    (∃ t, busEvent (.read .word 0x0008) State.reset = .next t) ∧
    busEvent (.read .word 0x0008) { State.reset with err := 4 } = .fault .reservedErrCode ∧
    State.reset.rst = false ∧ State.reset.err.toNat ≤ 3 ∧ State.reset.busy = false ∧
    (State.reset.setPending (some ⟨0, 5⟩)).rst = false ∧ (State.reset.setPending (some ⟨0, 5⟩)).busy = true :=
  ⟨⟨_, rfl⟩, rfl, by decide⟩

/-- OVR set by a dropped write, cleared by a STATUS write, cleared by reset. -/
theorem witness_OvrIsSticky :
    after (step ((State.reset.setPending (some ⟨0, 1⟩)).setInbox [wrOp .arg 5])) (fun t => t.ovr) = some true ∧
    after (step ((State.reset.setOvr true).setInbox [wrOp .status 8])) (fun t => t.ovr) = some false ∧
    after (step (((State.reset.setOvr true).setRst true).setInbox [.rst false])) (fun t => t.ovr) = some false := by decide

theorem witness_OperandsAreFrozenWhileBusy :
    after (step ((State.reset.setPending (some ⟨0, 1⟩)).setInbox [wrOp .arg 5])) (fun t => t.pending) = some (some ⟨0, 0⟩) := by
  decide

theorem witness_OnlyCmdWriteWakes :
    ∃ t p, step (State.reset.setInbox [wrOp .cmd 0x01000000]) = .next t ∧ State.reset.busy = false ∧ t.pending = some p :=
  ⟨_, _, rfl, by decide, rfl⟩

theorem witness_RstAbandonsAndRestores : (State.reset.setRst true).rst = true ∧ (0x0010 : BitVec 16).toNat % 4 = 0 := by decide

theorem inv_withPending (p : Pending) (l : List BusOp) : ((State.reset.setPending (some p)).setInbox l).Inv where
  err_produced := by simp [State.reset, State.resetWith]
  rankCol_le := by simp [State.reset, State.resetWith]
  incon_rank := by simp [State.reset, State.resetWith]
  singular_rank := by simp [State.reset, State.resetWith]
  rst_idle := by simp [State.reset, State.resetWith]

theorem witness_StepKeepsInvariant :
    ((State.reset.setPending (some ⟨0x20000000, 0⟩)).setInbox []).Inv ∧
    ∃ t, step ((State.reset.setPending (some ⟨0x20000000, 0⟩)).setInbox []) = .next t := ⟨inv_withPending _ _, _, rfl⟩

/-- A pending command with polls, a dropped write and a reset still to come. -/
theorem witness_PendingCommandIsTaken :
    ((State.reset.setPending (some ⟨0x20000000, 7⟩)).setInbox [.poll, wrOp .arg 1, .rst true, .rst false]).Inv ∧
    ((State.reset.setPending (some ⟨0x20000000, 7⟩)).setInbox [.poll, wrOp .arg 1, .rst true, .rst false]).hostSupported = true :=
  ⟨inv_withPending _ _, by decide⟩

/-- The same with no assertion of rst to come. -/
theorem witness_PendingCommandIsTaken_no_rst :
    ((State.reset.setPending (some ⟨0x20000000, 7⟩)).setInbox [.poll, wrOp .arg 1, .rst false]).Inv ∧
    ((State.reset.setPending (some ⟨0x20000000, 7⟩)).setInbox [.poll, wrOp .arg 1, .rst false]).hostSupported = true ∧
    BusOp.rst true ∉ [.poll, wrOp .arg 1, .rst false] := ⟨inv_withPending _ _, by decide, by decide⟩

theorem witness_ReservedErrCodeFaults : ({ State.reset with err := 4 } : State).rst = false ∧
    3 < ({ State.reset with err := 4 } : State).err.toNat := by decide

end Sys2Proof.Tests
end

section
/-! SUPPORT. Who moves in a step, the matrix commands' entries, and the supported host: the statements of the family `00_scope.md`. -/

namespace Sys2Proof.Machine

/-! ### Who moves in a step (R18, R82) -/

theorem step_of_engine_turn {s : State} {p : Pending} (hp : s.pending = some p) (ht : s.inbox = [] ∨ p.wait = 0) :
    step s = engineStep p.word s := by
  cases hi : s.inbox with
  | nil => simp only [step, systemStep, hi, hp]
  | cons op rest =>
    have hw : p.wait = 0 := ht.resolve_left (by simp [hi])
    simp only [step, systemStep, hi, hp, hw, if_true]

theorem step_of_host_turn_idle {s : State} {op : BusOp} {rest : List BusOp} (hi : s.inbox = op :: rest)
    (hp : s.pending = none) : step s = busEvent op (s.setInbox rest) := by
  simp only [step, systemStep, hi, hp]

theorem step_of_host_turn_pending {s : State} {op : BusOp} {rest : List BusOp} {p : Pending} (hi : s.inbox = op :: rest)
    (hp : s.pending = some p) (hw : p.wait ≠ 0) :
    step s = busEvent op ((s.setInbox rest).setPending (some p.tick)) := by
  simp only [step, systemStep, hi, hp, if_neg hw]

theorem engineStep_of_decode_ok {w : Word} {i : Instr} (h : decode w = .ok i) (s : State) : engineStep w s = exec i s := by
  simp only [engineStep, h]

/-- A word of the opcode table's full width is the command word itself. -/
theorem tableWord_toNat (w : Word) : tableWord 32 w.toNat = w := by
  rw [tableWord, Nat.mod_eq_of_lt w.isLt, BitVec.ofNat_toNat, BitVec.setWidth_eq]

/-- Settles O6: the engine's turn and the host's, each by the equation of the step at that turn. -/
theorem stepRunsDecodedCommand : Obligations.StepRunsDecodedCommand := by
  unfold Obligations.StepRunsDecodedCommand
  refine ⟨fun s p i hp ht hd => ?_, fun s w i hd => ?_, fun s op rest hi => ⟨fun hp => ?_, fun p hp hw => ?_⟩⟩
  · rw [step_of_engine_turn hp ht, engineStep_of_decode_ok hd]
  · rw [State.withFetchWord, tableWord_toNat, step_of_engine_turn (s.placeCommand_pending w) (.inr rfl),
      engineStep_of_decode_ok hd]
    rfl
  · exact step_of_host_turn_idle hi hp
  · exact step_of_host_turn_pending hi hp hw

/-! ### The matrix commands, entry by entry -/

/-- Settles O22, by the entries of the matrix sum; the operands are read before M[RD] is written. -/
theorem mxorEntries : Obligations.MxorEntries := by
  unfold Obligations.MxorEntries
  intro rd ra rb s
  exact ⟨_, exec_mxor s rd ra rb, fun r _ c _ => BitMat.bit_add _ _ r c⟩

/-- Settles O23, by the entries of the matrix product; the operands are read before M[RD] is written. -/
theorem mmulEntries : Obligations.MmulEntries := by
  unfold Obligations.MmulEntries
  intro rd ra rb s
  exact ⟨_, exec_mmul s rd ra rb, fun r hr c _ => BitMat.bit_mul _ _ hr c⟩

/-- Settles O25, by the entries of the transpose; the operand is read before M[RD] is written. -/
theorem mtrnEntries : Obligations.MtrnEntries := by
  unfold Obligations.MtrnEntries
  intro rd ra s
  exact ⟨_, exec_mtrn s rd ra, fun r hr c hc => BitMat.bit_transpose _ hr hc⟩

/-- Settles O27: position p of unvec's argument is the bit R12 names, and so is position p of vec(S). -/
theorem mapplyEntries : Obligations.MapplyEntries := by
  unfold Obligations.MapplyEntries
  intro ra s
  refine ⟨_, exec_mapply s ra, fun r hr => ?_⟩
  rw [← getMsbD_vec _ hr, State.setGen_gen, vec_unvec, BitMat.getMsbD_mulVec _ _ hr]
  exact xorBits_congr fun c hc => by rw [getMsbD_vec _ hc]

/-! ### MPOW as its loop (R174) -/

theorem execAll_cons_of_next {i : Instr} {s t : State} (h : exec i s = .next t) (is : List Instr) :
    execAll (i :: is) s = execAll is t := by
  simp only [execAll, h]

/-- Two completed commands that write the same matrix register: the second write stands. -/
theorem State.setMat_complete_setMat_complete (s : State) (rd : MatReg) (A B : Matrix) (c d : ErrCode) :
    (((s.setMat rd A).complete c).setMat rd B).complete d = (s.setMat rd B).complete d := by
  simp [State.setMat, State.complete]

/-- Each MMUL by M[RA] raises the power in M[RD] by one, as long as it does not overwrite M[RA]. -/
theorem execAll_replicate_mmul {rd ra : MatReg} (h : rd ≠ ra) (s : State) (n k : Nat) :
    execAll (List.replicate n (.mmul rd rd ra)) ((s.setMat rd ((s.mat ra).pow k)).complete .ok) =
      .next ((s.setMat rd ((s.mat ra).pow (k + n))).complete .ok) := by
  induction n generalizing k with
  | zero => rfl
  | succ n ih =>
    rw [List.replicate_succ, execAll_cons_of_next (exec_mmul _ rd rd ra), State.setMat_complete_setMat_complete,
      State.mat_complete, State.mat_complete, State.mat_setMat_self, State.mat_setMat_ne _ h.symm]
    exact (ih (k + 1)).trans (by rw [Nat.add_right_comm, Nat.add_assoc])

/-- Settles O24, by induction on the number of MMULs; the power itself does not depend on RD. -/
theorem mpowIsRepeatedMmul : Obligations.MpowIsRepeatedMmul := by
  unfold Obligations.MpowIsRepeatedMmul
  refine ⟨fun rd ra s h => ?_, fun ra s => ⟨_, fun rd => exec_mpow s rd ra⟩⟩
  calc
    exec (.mpow rd ra) s = .next ((s.setMat rd ((s.mat ra).pow s.argCount)).complete .ok) := exec_mpow s rd ra
    _ = .next ((s.setMat rd ((s.mat ra).pow (0 + s.argCount))).complete .ok) := by rw [Nat.zero_add]
    _ = execAll (List.replicate s.arg.toNat (.mmul rd rd ra)) ((s.setMat rd ((s.mat ra).pow 0)).complete .ok) :=
        (execAll_replicate_mmul h s s.argCount 0).symm
    _ = execAll (.mident rd :: List.replicate s.arg.toNat (.mmul rd rd ra)) s :=
        (execAll_cons_of_next (exec_mident s rd) _).symm

/-! ### The invariant over a completion -/

/-- A state whose ERR, RANKCOL and INCON are those of a state that meets the invariant meets it, if rst leaves it no command. -/
theorem State.Inv.of_fields_eq {s t : State} (h : s.Inv) (he : t.err = s.err) (hr : t.rankCol = s.rankCol)
    (hi : t.incon = s.incon) (hrst : t.rst = true → t.pending = none) : t.Inv where
  err_produced := he ▸ h.err_produced
  rankCol_le := hr ▸ h.rankCol_le
  incon_rank := by rw [hi, hr]; exact h.incon_rank
  singular_rank := by rw [he, hr, hi]; exact h.singular_rank
  rst_idle := hrst

theorem State.complete_inv_of_ne_singular {s : State} {c : ErrCode} (hc : c ≠ .singular) (hr : s.rankCol.toNat ≤ 128)
    (hi : s.incon = true → s.rankCol = 128) : (s.complete c).Inv where
  err_produced := c.bits_le
  rankCol_le := hr
  incon_rank := hi
  singular_rank := fun e => absurd (ErrCode.bits_injective e) hc
  rst_idle := fun _ => rfl

theorem State.complete_singular_inv {s : State} (hr : s.rankCol.toNat < 128) (hi : s.incon = false) :
    (s.complete .singular).Inv where
  err_produced := ErrCode.singular.bits_le
  rankCol_le := Nat.le_of_lt hr
  incon_rank := fun e => absurd (hi.symm.trans e) Bool.false_ne_true
  singular_rank := fun _ => ⟨hr, hi⟩
  rst_idle := fun _ => rfl

/-! ### What a command can answer -/

/-- Every command but SOLVE completes without SINGULAR and leaves RANKCOL, INCON and the host's list alone (R41, R48, R250). -/
theorem exec_of_ne_solve {i : Instr} (h : i ≠ .solve) (s : State) :
    ∃ (u : State) (c : ErrCode), exec i s = .next (u.complete c) ∧ c ≠ .singular ∧
      u.rankCol = s.rankCol ∧ u.incon = s.incon ∧ u.inbox = s.inbox := by
  cases i with
  | nop => exact ⟨_, .ok, exec_nop s, by decide, rfl, rfl, rfl⟩
  | stepf => exact ⟨_, .ok, exec_stepf s, by decide, rfl, rfl, rfl⟩
  | stepb => exact ⟨_, .ok, exec_stepb s, by decide, rfl, rfl, rfl⟩
  | stepn => exact ⟨_, .ok, exec_stepn s, by decide, rfl, rfl, rfl⟩
  | mzero rd => exact ⟨_, .ok, exec_mzero s rd, by decide, rfl, rfl, rfl⟩
  | mident rd => exact ⟨_, .ok, exec_mident s rd, by decide, rfl, rfl, rfl⟩
  | mtr rd => exact ⟨_, .ok, exec_mtr s rd, by decide, rfl, rfl, rfl⟩
  | mblk mode rd bi bj kind => exact ⟨_, .ok, exec_mblk s mode rd bi bj kind, by decide, rfl, rfl, rfl⟩
  | mxor rd ra rb => exact ⟨_, .ok, exec_mxor s rd ra rb, by decide, rfl, rfl, rfl⟩
  | mmul rd ra rb => exact ⟨_, .ok, exec_mmul s rd ra rb, by decide, rfl, rfl, rfl⟩
  | mpow rd ra => exact ⟨_, .ok, exec_mpow s rd ra, by decide, rfl, rfl, rfl⟩
  | mtrn rd ra => exact ⟨_, .ok, exec_mtrn s rd ra, by decide, rfl, rfl, rfl⟩
  | meq ra rb => exact ⟨_, .ok, exec_meq s ra rb, by decide, rfl, rfl, rfl⟩
  | mapply ra => exact ⟨_, .ok, exec_mapply s ra, by decide, rfl, rfl, rfl⟩
  | mrows ra =>
    by_cases hg : s.ngapCount ≤ 64
    · exact ⟨_, .ok, exec_mrows_ok s ra hg, by decide, rfl, rfl, rfl⟩
    · exact ⟨s, .badArg, exec_mrows_bad s ra (by omega), by decide, rfl, rfl, rfl⟩
  | solve => exact absurd rfl h

/-- SOLVE answers BADARG, SINGULAR at a column it went over, or the solution of the eliminated system (R220, R223, R224). -/
theorem exec_solve_cases (s : State) :
    (256 < s.nrowsCount ∧ exec .solve s = .next (s.complete .badArg)) ∨
    (∃ c < 128, forwardFrom 128 0 (s.system s.nrowsCount) = .error c ∧
      exec .solve s = .next (((s.setRankCol (BitVec.ofNat 8 c)).setIncon false).complete .singular)) ∨
    (∃ A, forwardFrom 128 0 (s.system s.nrowsCount) = .ok A ∧
      exec .solve s = .next ((((s.setGen (unvec (solution (backFrom 128 A)))).setIncon
        (inconOf (backFrom 128 A))).setRankCol 128).complete .ok)) := by
  by_cases hn : s.nrowsCount ≤ 256
  · cases e : forwardFrom 128 0 (s.system s.nrowsCount) with
    | error c =>
      have hc := (forwardFrom_error_lt e).2
      exact .inr (.inl ⟨c, by omega, rfl, exec_solve_singular s hn e⟩)
    | ok A => exact .inr (.inr ⟨A, rfl, exec_solve_ok s hn e⟩)
  · exact .inl ⟨by omega, exec_solve_bad s (by omega)⟩

/-- SOLVE keeps the invariant: SINGULAR comes with its column, success with RANKCOL = 128 (R223, R224). -/
theorem exec_solve_next_inv {s : State} (h : s.Inv) :
    ∃ t, exec .solve s = .next t ∧ t.Inv ∧ t.inbox = s.inbox := by
  rcases exec_solve_cases s with ⟨-, e⟩ | ⟨c, hc, -, e⟩ | ⟨A, -, e⟩
  · exact ⟨_, e, State.complete_inv_of_ne_singular (by decide) h.rankCol_le h.incon_rank, rfl⟩
  · have hr : (BitVec.ofNat 8 c).toNat < 128 := by rw [BitVec.toNat_ofNat]; omega
    exact ⟨_, e, State.complete_singular_inv hr rfl, rfl⟩
  · exact ⟨_, e, State.complete_inv_of_ne_singular (by decide) (by simp) fun _ => rfl, by simp⟩

/-- No command stops the block (R255), and each keeps the invariant. -/
theorem exec_next_inv {s : State} (h : s.Inv) (i : Instr) :
    ∃ t, exec i s = .next t ∧ t.Inv ∧ t.inbox = s.inbox := by
  by_cases hi : i = .solve
  · exact hi ▸ exec_solve_next_inv h
  · obtain ⟨u, c, e, hc, hrank, hincon, hinbox⟩ := exec_of_ne_solve hi s
    refine ⟨_, e, State.complete_inv_of_ne_singular hc (hrank ▸ h.rankCol_le) ?_, hinbox⟩
    rw [hrank, hincon]
    exact h.incon_rank

/-- Nor does an illegal word stop it (R107). -/
theorem engineStep_next_inv {s : State} (h : s.Inv) (w : Word) :
    ∃ t, engineStep w s = .next t ∧ t.Inv ∧ t.inbox = s.inbox := by
  rcases engineStep_cases w s with ⟨i, -, e⟩ | ⟨_, -, e⟩
  · exact e ▸ exec_next_inv h i
  · exact ⟨_, e, State.complete_inv_of_ne_singular (by decide) h.rankCol_le h.incon_rank, rfl⟩

/-! ### What a supported access can answer -/

/-- ERR holds no reserved code, so no read faults (R50, U5). -/
theorem hostRead_next_inv {s : State} (h : s.Inv) (a : BitVec 16) :
    ∃ t, hostRead a s = .next t ∧ t.Inv ∧ t.inbox = s.inbox := by
  rcases hostRead_cases a s with ⟨v, e, -⟩ | ⟨-, he⟩ | e
  · exact ⟨_, e, h.of_fields_eq rfl rfl rfl h.rst_idle, rfl⟩
  · exact absurd ((errReserved_iff _).1 he) (Nat.not_lt.2 h.err_produced)
  · exact ⟨_, e, h.of_fields_eq rfl rfl rfl h.rst_idle, rfl⟩

theorem statusWrite_inv {s : State} (h : s.Inv) (v : Word) :
    (statusWrite v s).Inv ∧ (statusWrite v s).inbox = s.inbox := by
  unfold statusWrite
  split
  · exact ⟨h.of_fields_eq rfl rfl rfl h.rst_idle, rfl⟩
  · exact ⟨h, rfl⟩

/-- A write never stops; it can start a command only where rst is low (R81, R280). -/
theorem hostWrite_next_inv {s : State} (h : s.Inv) (a : BitVec 16) (v : Word) :
    ∃ t, hostWrite a v s = .next t ∧ t.Inv ∧ t.inbox = s.inbox := by
  rcases hostWrite_cases a v s with ⟨e, -⟩ | ⟨e, -, -⟩ | ⟨e, -, -, -⟩ | ⟨e, hrst, -, -⟩
  · exact ⟨s, e, h, rfl⟩
  · exact ⟨_, e, statusWrite_inv h v⟩
  · exact ⟨_, e, h.of_fields_eq rfl rfl rfl h.rst_idle, rfl⟩
  · refine ⟨_, e, h.of_fields_eq (by simp) (by simp) (by simp) fun hr => ?_, s.poke_inbox v _⟩
    rw [State.poke_rst, hrst] at hr
    exact absurd hr Bool.false_ne_true

/-- A poll is a read that may stay at the head of the host's list (R84, R113). -/
theorem hostPoll_next_inv {s : State} (h : s.Inv) :
    ∃ t, hostPoll s = .next t ∧ t.Inv ∧ (t.inbox = s.inbox ∨ t.inbox = .poll :: s.inbox) := by
  obtain ⟨u, e, hu, hinbox⟩ := hostRead_next_inv h Loc.status.offset
  simp only [hostPoll, e]
  split
  · exact ⟨_, rfl, hu.of_fields_eq rfl rfl rfl hu.rst_idle, .inr (congrArg (BusOp.poll :: ·) hinbox)⟩
  · exact ⟨_, rfl, hu, .inl hinbox⟩

theorem State.resetWith_inv (d : Nat) (l : List BusOp) (v : Word) : (State.resetWith d l v).Inv where
  err_produced := by simp [State.resetWith]
  rankCol_le := by simp [State.resetWith]
  incon_rank := by simp [State.resetWith]
  singular_rank := by simp [State.resetWith, ErrCode.bits]
  rst_idle := fun _ => rfl

/-- Asserting rst abandons the command; deasserting it leaves the reset state (R280, R281). -/
theorem rstChange_inv {s : State} (h : s.Inv) (level : Bool) :
    (rstChange level s).Inv ∧ (rstChange level s).inbox = s.inbox := by
  unfold rstChange
  split
  · exact ⟨h.of_fields_eq rfl rfl rfl fun _ => rfl, rfl⟩
  · split
    · exact ⟨State.resetWith_inv _ _ _, rfl⟩
    · exact ⟨h, rfl⟩

theorem busEvent_next_inv {s : State} (h : s.Inv) {op : BusOp} (hop : op.supported = true) :
    ∃ t, busEvent op s = .next t ∧ t.Inv ∧ (t.inbox = s.inbox ∨ t.inbox = .poll :: s.inbox) := by
  cases op with
  | read size a =>
    obtain ⟨t, e, ht, hinbox⟩ := hostRead_next_inv h a
    exact ⟨t, (if_pos hop).trans e, ht, .inl hinbox⟩
  | write size a v =>
    obtain ⟨t, e, ht, hinbox⟩ := hostWrite_next_inv h a v
    exact ⟨t, (if_pos hop).trans e, ht, .inl hinbox⟩
  | poll => exact hostPoll_next_inv h
  | rst level => exact ⟨_, rfl, (rstChange_inv h level).1, .inl (rstChange_inv h level).2⟩

/-! ### The supported host -/

theorem State.hostSupported_congr {s t : State} (h : t.inbox = s.inbox) : t.hostSupported = s.hostSupported := by
  rw [State.hostSupported, State.hostSupported, h]

theorem State.hostSupported_cons {s : State} {op : BusOp} {rest : List BusOp} (h : s.inbox = op :: rest) :
    s.hostSupported = true ↔ op.supported = true ∧ (s.setInbox rest).hostSupported = true := by
  rw [State.hostSupported, h, List.all_cons, Bool.and_eq_true, State.hostSupported, State.setInbox_inbox]

/-- A supported event leaves a supported host: the poll it may put back is supported. -/
theorem busEvent_next_supported {s : State} (h : s.Inv) {op : BusOp} (hop : op.supported = true)
    (hs : s.hostSupported = true) : ∃ t, busEvent op s = .next t ∧ t.Inv ∧ t.hostSupported = true := by
  obtain ⟨t, e, ht, hinbox | hinbox⟩ := busEvent_next_inv h hop
  · exact ⟨t, e, ht, (State.hostSupported_congr hinbox).trans hs⟩
  · exact ⟨t, e, ht, (State.hostSupported_cons hinbox).2 ⟨rfl, hs⟩⟩

/-- Settles O56: by who moves in the step, each mover answers and keeps the invariant and the list of supported events. -/
theorem supportedHostNeverStops : Obligations.SupportedHostNeverStops := by
  unfold Obligations.SupportedHostNeverStops
  intro s h hs
  rcases step_cases s with ⟨-, -, e⟩ | ⟨p, -, -, e⟩ | ⟨op, rest, hi, hp, e⟩ | ⟨op, rest, p, hi, hp, -, e⟩
  · exact ⟨s, e, h, hs⟩
  · obtain ⟨t, et, ht, hinbox⟩ := engineStep_next_inv h p.word
    exact ⟨t, e.trans et, ht, (State.hostSupported_congr hinbox).trans hs⟩
  · obtain ⟨hop, hrest⟩ := (State.hostSupported_cons hi).1 hs
    have hu : (s.setInbox rest).Inv := h.of_fields_eq rfl rfl rfl fun _ => hp
    exact e ▸ busEvent_next_supported hu hop hrest
  · obtain ⟨hop, hrest⟩ := (State.hostSupported_cons hi).1 hs
    have hu : ((s.setInbox rest).setPending (some p.tick)).Inv := h.of_fields_eq rfl rfl rfl fun hr =>
      absurd ((h.rst_idle hr).symm.trans hp) (Option.some_ne_none p).symm
    exact e ▸ busEvent_next_supported hu hop hrest

end Sys2Proof.Machine
end

section
/-! SUPPORT. The invariant over every step, and what a command answers and leaves alone: the statements of the family
`10_state.md` about commands. -/

namespace Sys2Proof.Machine

/-! ### The invariant over every step -/

theorem busEvent_of_unsupported {op : BusOp} (h : op.supported = false) (s : State) :
    busEvent op s = .refused .unsupportedAccess := by
  cases op with
  | read size a => exact if_neg (Bool.eq_false_iff.1 h)
  | write size a v => exact if_neg (Bool.eq_false_iff.1 h)
  | poll => cases h
  | rst level => cases h

theorem supported_of_busEvent_next {op : BusOp} {s t : State} (h : busEvent op s = .next t) : op.supported = true := by
  cases hop : op.supported with
  | true => rfl
  | false => cases (busEvent_of_unsupported hop s).symm.trans h

/-- What an event answers, if it answers, meets the invariant again: an unsupported one has no answer (R71). -/
theorem busEvent_inv {op : BusOp} {s t : State} (hs : s.Inv) (h : busEvent op s = .next t) : t.Inv := by
  obtain ⟨u, hu, hinv, -⟩ := busEvent_next_inv hs (supported_of_busEvent_next h)
  cases h.symm.trans hu
  exact hinv

theorem engineStep_inv {w : Word} {s t : State} (hs : s.Inv) (h : engineStep w s = .next t) : t.Inv := by
  obtain ⟨u, hu, hinv, -⟩ := engineStep_next_inv hs w
  cases h.symm.trans hu
  exact hinv

/-- Settles O55: by who moves in the step; the engine's transition and every event of the host keep the invariant. -/
theorem stepKeepsInvariant : Obligations.StepKeepsInvariant := by
  unfold Obligations.StepKeepsInvariant
  intro s t hs h
  rcases step_cases s with ⟨-, -, e⟩ | ⟨p, -, -, e⟩ | ⟨op, rest, -, -, e⟩ | ⟨op, rest, p, -, hp, -, e⟩
  · cases e.symm.trans h
    exact hs
  · exact engineStep_inv hs (e.symm.trans h)
  · have hu : (s.setInbox rest).Inv := hs.of_fields_eq rfl rfl rfl hs.rst_idle
    exact busEvent_inv hu (e.symm.trans h)
  · have hu : ((s.setInbox rest).setPending (some p.tick)).Inv := hs.of_fields_eq rfl rfl rfl fun hrst =>
      absurd ((hs.rst_idle hrst).symm.trans hp) (Option.some_ne_none p).symm
    exact busEvent_inv hu (e.symm.trans h)

/-- Settles O54: State.reset is one of the reset states, which all meet the invariant. -/
theorem resetMeetsInvariant : Obligations.ResetMeetsInvariant := State.resetWith_inv 0 [] 0

/-! ### What a command leaves alone (R54) -/

/-- The state t differs from s only in what the command names as written; of E only in the rows below 4·NGAP (R54, R182). -/
structure KeepsUnnamed (i : Instr) (s t : State) : Prop where
  eqFlag : i.writesEq = false → t.eqFlag = s.eqFlag
  incon : i.writesSolve = false → t.incon = s.incon
  rankCol : i.writesSolve = false → t.rankCol = s.rankCol
  gen : i.writesGen = false → t.gen = s.gen
  out : i.writesOut = false → t.out = s.out
  nrows : i.writesRows = false → t.nrows = s.nrows
  eqn (r : Nat) (h : r < 256) : (i.writesRows && decide (r < 4 * s.ngap.toNat)) = false → t.eqns[r] = s.eqns[r]
  mat (m : MatReg) : i.dest ≠ some m → t.mat m = s.mat m
  arg : t.arg = s.arg
  ngap : t.ngap = s.ngap
  rhs : t.rhs = s.rhs
  gaps : t.gaps = s.gaps
  ovr : t.ovr = s.ovr
  rst : t.rst = s.rst
  rdata : t.rdata = s.rdata
  inbox : t.inbox = s.inbox
  draws : t.draws = s.draws

namespace KeepsUnnamed

variable {i : Instr} {s t : State}

theorem refl (i : Instr) (s : State) : KeepsUnnamed i s s := by constructor <;> intros <;> rfl

theorem complete (h : KeepsUnnamed i s t) (c : ErrCode) : KeepsUnnamed i s (t.complete c) := { h with }

theorem setEq (h : KeepsUnnamed i s t) (hw : i.writesEq = true) (b : Bool) : KeepsUnnamed i s (t.setEq b) :=
  { h with eqFlag := by simp [hw] }

theorem setIncon (h : KeepsUnnamed i s t) (hw : i.writesSolve = true) (b : Bool) : KeepsUnnamed i s (t.setIncon b) :=
  { h with incon := by simp [hw] }

theorem setRankCol (h : KeepsUnnamed i s t) (hw : i.writesSolve = true) (v : BitVec 8) :
    KeepsUnnamed i s (t.setRankCol v) :=
  { h with rankCol := by simp [hw] }

theorem setGen (h : KeepsUnnamed i s t) (hw : i.writesGen = true) (g : GenState) : KeepsUnnamed i s (t.setGen g) :=
  { h with gen := by simp [hw] }

theorem setOut (h : KeepsUnnamed i s t) (hw : i.writesOut = true) (v : Word) : KeepsUnnamed i s (t.setOut v) :=
  { h with out := by simp [hw] }

theorem setNrows (h : KeepsUnnamed i s t) (hw : i.writesRows = true) (v : BitVec 16) :
    KeepsUnnamed i s (t.setNrows v) :=
  { h with nrows := by simp [hw] }

theorem setEqns (h : KeepsUnnamed i s t) {E : Vector Row 256}
    (hE : ∀ (r : Nat) (hr : r < 256), 4 * s.ngap.toNat ≤ r → E[r] = s.eqns[r]) (hw : i.writesRows = true) :
    KeepsUnnamed i s (t.setEqns E) :=
  { h with eqn := fun r hr hn => hE r hr (by simpa [hw] using hn) }

theorem setMat (h : KeepsUnnamed i s t) {rd : MatReg} (hd : i.dest = some rd) (A : Matrix) :
    KeepsUnnamed i s (t.setMat rd A) :=
  { h with mat := fun m hm => (t.mat_setMat_ne (fun e : m = rd => hm (e ▸ hd)) A).trans (h.mat m hm) }

end KeepsUnnamed

/-! ### How a command completes (R50, R250) -/

/-- Only SOLVE ends with SINGULAR, only SOLVE and MROWS with BADARG; none with BADCMD (R250). -/
def MayEndWith (i : Instr) (c : ErrCode) : Prop :=
  c = .ok ∨ (c = .singular ∧ i = .solve) ∨ (c = .badArg ∧ (i = .solve ∨ ∃ ra, i = .mrows ra))

/-- A record of MROWS leaves every row past it alone (R182). -/
theorem getElem_recordRows_of_ge (i : Nat) (W : Matrix) (E : Vector Row 256) {r : Nat} (hr : r < 256)
    (h : 4 * (i + 1) ≤ r) : (recordRows i W E)[r] = E[r] := by
  simp only [recordRows]
  rw [Vector.getElem_setIfInBounds_ne _ (by omega), Vector.getElem_setIfInBounds_ne _ (by omega),
    Vector.getElem_setIfInBounds_ne _ (by omega), Vector.getElem_setIfInBounds_ne _ (by omega)]

theorem getElem_recordLoop_of_ge (T : Matrix) (gap : Nat → Nat) {r : Nat} (hr : r < 256) (k i : Nat) (W : Matrix)
    (E : Vector Row 256) (h : 4 * (i + k) ≤ r) : (recordLoop T gap k i W E)[r] = E[r] := by
  induction k generalizing i W E with
  | zero => rfl
  | succ k ih => rw [recordLoop, ih _ _ _ (by omega), getElem_recordRows_of_ge i W E hr (by omega)]

/-- What every command answers: a completion, with a code it may end with, of a state that differs only in what the command
names as written (R50, R51, R54). -/
theorem exec_completes (i : Instr) (s : State) :
    ∃ (c : ErrCode) (u : State), exec i s = .next (u.complete c) ∧ MayEndWith i c ∧ KeepsUnnamed i s u := by
  have h := KeepsUnnamed.refl i s
  cases i with
  | nop => exact ⟨_, _, exec_nop s, .inl rfl, h⟩
  | stepf => exact ⟨_, _, exec_stepf s, .inl rfl, (h.setGen rfl _).setOut rfl _⟩
  | stepb => exact ⟨_, _, exec_stepb s, .inl rfl, h.setGen rfl _⟩
  | stepn => exact ⟨_, _, exec_stepn s, .inl rfl, (h.setGen rfl _).setOut rfl _⟩
  | mzero rd => exact ⟨_, _, exec_mzero s rd, .inl rfl, h.setMat rfl _⟩
  | mident rd => exact ⟨_, _, exec_mident s rd, .inl rfl, h.setMat rfl _⟩
  | mtr rd => exact ⟨_, _, exec_mtr s rd, .inl rfl, h.setMat rfl _⟩
  | mblk mode rd bi bj kind => exact ⟨_, _, exec_mblk s mode rd bi bj kind, .inl rfl, h.setMat rfl _⟩
  | mxor rd ra rb => exact ⟨_, _, exec_mxor s rd ra rb, .inl rfl, h.setMat rfl _⟩
  | mmul rd ra rb => exact ⟨_, _, exec_mmul s rd ra rb, .inl rfl, h.setMat rfl _⟩
  | mpow rd ra => exact ⟨_, _, exec_mpow s rd ra, .inl rfl, h.setMat rfl _⟩
  | mtrn rd ra => exact ⟨_, _, exec_mtrn s rd ra, .inl rfl, h.setMat rfl _⟩
  | meq ra rb => exact ⟨_, _, exec_meq s ra rb, .inl rfl, h.setEq rfl _⟩
  | mapply ra => exact ⟨_, _, exec_mapply s ra, .inl rfl, h.setGen rfl _⟩
  | mrows ra =>
    by_cases hg : s.ngapCount ≤ 64
    · have hE : ∀ (r : Nat) (hr : r < 256), 4 * s.ngap.toNat ≤ r →
          (recordLoop (s.mat ra) s.gap s.ngapCount 0 (s.mat ra) s.eqns)[r] = s.eqns[r] := fun r hr hge =>
        getElem_recordLoop_of_ge _ _ hr _ _ _ _ (by rwa [Nat.zero_add])
      exact ⟨_, _, exec_mrows_ok s ra hg, .inl rfl, (h.setEqns hE rfl).setNrows rfl _⟩
    · exact ⟨_, _, exec_mrows_bad s ra (by omega), .inr (.inr ⟨rfl, .inr ⟨ra, rfl⟩⟩), h⟩
  | solve =>
    rcases exec_solve_cases s with ⟨-, e⟩ | ⟨_, -, -, e⟩ | ⟨_, -, e⟩
    · exact ⟨_, _, e, .inr (.inr ⟨rfl, .inl rfl⟩), h⟩
    · exact ⟨_, _, e, .inr (.inl ⟨rfl, rfl⟩), (h.setRankCol rfl _).setIncon rfl _⟩
    · exact ⟨_, _, e, .inl rfl, ((h.setGen rfl _).setIncon rfl _).setRankCol rfl _⟩

theorem exec_keepsUnnamed {i : Instr} {s t : State} (h : exec i s = .next t) : KeepsUnnamed i s t := by
  obtain ⟨c, u, e, -, hu⟩ := exec_completes i s
  cases h.symm.trans e
  exact hu.complete c

/-- Settles O7: the codes a command may end with, read off ERR. -/
theorem everyCommandCompletes : Obligations.EveryCommandCompletes := by
  unfold Obligations.EveryCommandCompletes
  intro i s
  obtain ⟨c, u, e, hc, -⟩ := exec_completes i s
  refine ⟨_, e, rfl, ?_⟩
  rcases hc with rfl | ⟨rfl, hi⟩ | ⟨rfl, hi⟩
  · exact .inl rfl
  · exact .inr (.inl ⟨rfl, hi⟩)
  · exact .inr (.inr ⟨rfl, hi⟩)

/-- Settles O26: EQ is the equality of the two matrices, and a matrix is its bits. -/
theorem meqComparesEveryBit : Obligations.MeqComparesEveryBit := by
  unfold Obligations.MeqComparesEveryBit
  intro ra rb s
  refine ⟨_, exec_meq s ra rb, ?_⟩
  rw [State.setEq_eqFlag, eqFlagOf, decide_eq_true_iff]
  exact ⟨fun h _ _ _ _ => h ▸ rfl, BitMat.ext_bits⟩

/-- Settles O39: the fields of the frame; a command that does not write the rows writes none of the 256. -/
theorem commandsWriteOnlyTheirRegisters : Obligations.CommandsWriteOnlyTheirRegisters := by
  unfold Obligations.CommandsWriteOnlyTheirRegisters
  intro i s t e
  have h := exec_keepsUnnamed e
  have hE (hw : i.writesRows = false) : t.eqns = s.eqns := Vector.ext fun r hr => h.eqn r hr (by simp [hw])
  exact ⟨h.eqFlag, fun hw => ⟨h.incon hw, h.rankCol hw⟩, h.gen, h.out, fun hw => ⟨h.nrows hw, hE hw⟩, h.mat, h.arg, h.ngap,
    h.rhs, h.gaps, h.ovr, h.rst, h.rdata, h.inbox, h.draws⟩

/-- What a location holds is kept where the command does not name it as written (R54). -/
theorem KeepsUnnamed.peek_eq {i : Instr} {s t : State} (h : KeepsUnnamed i s t) {l : Loc} (hl : i.mayWrite s l = false) :
    t.peek l = s.peek l := by
  cases l with
  | id => rfl
  | cfg => rfl
  | status => cases hl
  | cmd => rfl
  | arg => exact h.arg
  | nrows => exact congrArg (BitVec.setWidth 32) (h.nrows hl)
  | ngap => exact congrArg (BitVec.setWidth 32) h.ngap
  | rankCol => exact congrArg (BitVec.setWidth 32) (h.rankCol hl)
  | gen k => exact congrArg (GenState.word · k.val) (h.gen hl)
  | out => exact h.out hl
  | eqn r k => exact congrArg (rowWord · k.val) (h.eqn r.val r.isLt hl)
  | rhs j => exact congrArg (rhsWord · j.val) h.rhs
  | gap j => exact congrArg (fun G : Vector Word 64 => G[j.val]) h.gaps
  | mat m r k =>
    have hm : t.mat m = s.mat m := h.mat m fun e => by simp [Instr.mayWrite, e] at hl
    exact congrArg (fun A : Matrix => rowWord (A.row r.val) k.val) hm
  | reserved => rfl

/-- Settles O40: the frame, location by location. -/
theorem commandsKeepOtherLocations : Obligations.CommandsKeepOtherLocations := by
  unfold Obligations.CommandsKeepOtherLocations
  exact fun i s t a e hl => (exec_keepsUnnamed e).peek_eq hl

end Sys2Proof.Machine
end

section
/-! SUPPORT. What one host event can do, what sets and clears OVR, and what becomes of a pending command: the statements of the
family `10_state.md` about steps. -/

namespace Sys2Proof.Machine

/-! ### What one host event can do (R80, R81, R280, R281) -/

theorem hostRead_next {a : BitVec 16} {s t : State} (h : hostRead a s = .next t) :
    ∃ v d, t = { s with rdata := v, draws := d } := by
  rcases hostRead_cases a s with ⟨v, e, -⟩ | ⟨e, -⟩ | e
  · cases e.symm.trans h
    exact ⟨v, s.draws + 1, rfl⟩
  · cases e.symm.trans h
  · cases e.symm.trans h
    exact ⟨s.peek (Loc.ofOffset a), s.draws, rfl⟩

theorem hostPoll_next {s t : State} (h : hostPoll s = .next t) :
    ∃ v l d, t = { s with rdata := v, inbox := l, draws := d } ∧ (l = s.inbox ∨ l = .poll :: s.inbox) := by
  unfold hostPoll at h
  cases e : hostRead Loc.status.offset s with
  | next u =>
    obtain ⟨v, d, rfl⟩ := hostRead_next e
    simp only [e] at h
    split at h <;> cases h
    · exact ⟨v, _, d, rfl, .inr rfl⟩
    · exact ⟨v, _, d, rfl, .inl rfl⟩
  | fault r => simp only [e] at h; cases h
  | refused r => simp only [e] at h; cases h

/-- An event is a read or a poll, which change only the read data, the draws and, where a poll goes on, the host's list; or a
write; or a change of rst. -/
theorem busEvent_next_cases {op : BusOp} {s t : State} (h : busEvent op s = .next t) :
    (∃ v l d, t = { s with rdata := v, inbox := l, draws := d } ∧ (l = s.inbox ∨ l = .poll :: s.inbox)) ∨
    (∃ a v, op = .write .word a v ∧ hostWrite a v s = .next t) ∨
    (∃ level, op = .rst level ∧ t = rstChange level s) := by
  have hop := supported_of_busEvent_next h
  cases op with
  | read size a =>
    obtain ⟨v, d, e⟩ := hostRead_next ((if_pos hop).symm.trans h)
    exact .inl ⟨v, s.inbox, d, e, .inl rfl⟩
  | write size a v =>
    have hsize : size = .word := by
      simp only [BusOp.supported, accessSupported, Bool.and_eq_true, decide_eq_true_eq] at hop
      exact hop.1
    exact .inr (.inl ⟨a, v, by rw [hsize], (if_pos hop).symm.trans h⟩)
  | poll => exact .inl (hostPoll_next h)
  | rst level =>
    cases h
    exact .inr (.inr ⟨level, rfl, rfl⟩)

theorem statusWrite_cases (v : Word) (s : State) :
    (v.getLsbD 3 = true ∧ statusWrite v s = s.setOvr false) ∨ (v.getLsbD 3 = false ∧ statusWrite v s = s) := by
  cases hv : v.getLsbD 3
  · exact .inr ⟨rfl, by rw [statusWrite, hv]; rfl⟩
  · exact .inl ⟨rfl, if_pos hv⟩

theorem rstChange_cases (level : Bool) (s : State) :
    (level = true ∧ rstChange level s = (s.setRst true).setPending none) ∨
    (level = false ∧ s.rst = true ∧ rstChange level s = State.resetWith s.draws s.inbox s.rdata) ∨
    (level = false ∧ s.rst = false ∧ rstChange level s = s) := by
  cases level with
  | true => exact .inl ⟨rfl, rfl⟩
  | false =>
    cases hr : s.rst
    · exact .inr (.inr ⟨rfl, rfl, by rw [rstChange, hr]; rfl⟩)
    · exact .inr (.inl ⟨rfl, rfl, if_pos hr⟩)

/-! ### The engine's transition (R51) -/

/-- The engine's transition completes the command and leaves OVR alone (R49, R51). -/
theorem engineStep_completes {w : Word} {s t : State} (h : engineStep w s = .next t) :
    t.pending = none ∧ t.ovr = s.ovr := by
  rcases engineStep_cases w s with ⟨i, -, e⟩ | ⟨_, -, e⟩
  · obtain ⟨c, u, e', -, hu⟩ := exec_completes i s
    cases h.symm.trans (e.trans e')
    exact ⟨rfl, hu.ovr⟩
  · cases h.symm.trans e
    exact ⟨rfl, rfl⟩

/-! ### OVR (R49) -/

/-- The event is a write to a location other than STATUS. -/
def BusOp.WritesBesideStatus (op : BusOp) : Prop :=
  ∃ (a : BitVec 16) (v : Word), op = .write .word a v ∧ Loc.ofOffset a ≠ .status

/-- The event is a write to STATUS with bit 3 = 1. -/
def BusOp.ClearsOvr (op : BusOp) : Prop :=
  ∃ (a : BitVec 16) (v : Word), op = .write .word a v ∧ Loc.ofOffset a = .status ∧ v.getLsbD 3 = true

/-- An event keeps OVR, or sets it as a write that BUSY = 1 dropped, or clears it by STATUS or by the deassertion of rst. -/
theorem busEvent_ovr {op : BusOp} {s t : State} (h : busEvent op s = .next t) :
    t.ovr = s.ovr ∨ (t.ovr = true ∧ s.busy = true ∧ op.WritesBesideStatus) ∨
    (t.ovr = false ∧ (op.ClearsOvr ∨ (op = .rst false ∧ s.rst = true))) := by
  rcases busEvent_next_cases h with ⟨v, l, d, rfl, -⟩ | ⟨a, v, hop, hw⟩ | ⟨level, hop, rfl⟩
  · exact .inl rfl
  · rcases hostWrite_cases a v s with ⟨e, -⟩ | ⟨e, -, ha⟩ | ⟨e, -, ha, hb⟩ | ⟨e, -, -, -⟩ <;> cases e.symm.trans hw
    · exact .inl rfl
    · rcases statusWrite_cases v s with ⟨hv, e⟩ | ⟨-, e⟩ <;> rw [e]
      · exact .inr (.inr ⟨rfl, .inl ⟨a, v, hop, ha, hv⟩⟩)
      · exact .inl rfl
    · exact .inr (.inl ⟨rfl, hb, a, v, hop, ha⟩)
    · exact .inl (s.poke_ovr v _)
  · rcases rstChange_cases level s with ⟨-, e⟩ | ⟨rfl, hr, e⟩ | ⟨-, -, e⟩ <;> rw [e]
    · exact .inl rfl
    · exact .inr (.inr ⟨rfl, .inr ⟨hop, hr⟩⟩)
    · exact .inl rfl

/-- The same of a step: the event is the head of the host's list. -/
theorem step_ovr {s t : State} (h : step s = .next t) :
    t.ovr = s.ovr ∨ ∃ op rest, s.inbox = op :: rest ∧
      ((t.ovr = true ∧ s.busy = true ∧ op.WritesBesideStatus) ∨
        (t.ovr = false ∧ (op.ClearsOvr ∨ (op = .rst false ∧ s.rst = true)))) := by
  rcases step_cases s with ⟨-, -, e⟩ | ⟨p, -, -, e⟩ | ⟨op, rest, hi, -, e⟩ | ⟨op, rest, p, hi, hp, -, e⟩
  · cases e.symm.trans h
    exact .inl rfl
  · exact .inl (engineStep_completes (e.symm.trans h)).2
  · exact (busEvent_ovr (e.symm.trans h)).imp_right fun hc => ⟨op, rest, hi, hc⟩
  · have hb : s.busy = true := s.busy_iff.2 ⟨p, hp⟩
    exact (busEvent_ovr (e.symm.trans h)).imp_right fun hc => ⟨op, rest, hi, hc.imp_left fun ⟨ho, _, hw⟩ => ⟨ho, hb, hw⟩⟩

/-- Settles O49: a step keeps OVR, sets it by a dropped write, or clears it by STATUS or by the deassertion of rst. -/
theorem ovrIsSticky : Obligations.OvrIsSticky := by
  unfold Obligations.OvrIsSticky
  intro s t h
  rcases step_ovr h with e | ⟨op, rest, hi, ⟨e, hb, a, v, rfl, ha⟩ | ⟨e, hc⟩⟩ <;> rw [e]
  · exact ⟨fun hs ht => absurd (hs.symm.trans ht) Bool.false_ne_true,
      fun hs ht => absurd (ht.symm.trans hs) Bool.false_ne_true⟩
  · exact ⟨fun _ _ => ⟨hb, a, v, rest, hi, ha⟩, fun _ ht => absurd ht.symm Bool.false_ne_true⟩
  · refine ⟨fun _ ht => absurd ht Bool.false_ne_true, fun _ _ => ?_⟩
    rcases hc with ⟨a, v, rfl, ha, hv⟩ | ⟨rfl, hr⟩
    · exact .inl ⟨a, v, rest, hi, ha, hv⟩
    · exact .inr ⟨rest, hi, hr⟩

/-! ### A pending command (R51, R83) -/

/-- Only OVR, the read data, the host's list, the draws and the pending command differ: what the host can change while a command is
pending (R81, R83). -/
def SameOperands (s t : State) : Prop :=
  t = { s with ovr := t.ovr, rdata := t.rdata, inbox := t.inbox, draws := t.draws, pending := t.pending }

theorem SameOperands.refl (s : State) : SameOperands s s := rfl

theorem SameOperands.trans {s t u : State} (h : SameOperands s t) (h' : SameOperands t u) : SameOperands s u := by
  cases s; cases t; cases u
  simp_all [SameOperands]

/-- With a command pending, an event of the host leaves it and its operands alone, but for a change of rst (R81, R281). -/
theorem busEvent_while_pending {op : BusOp} {s t : State} {p : Pending} (hp : s.pending = some p)
    (h : busEvent op s = .next t) :
    (t.pending = none ∧ (op = .rst true ∨ s.rst = true)) ∨
    (t.pending = some p ∧ SameOperands s t ∧ (t.inbox = s.inbox ∨ t.inbox = .poll :: s.inbox)) := by
  rcases busEvent_next_cases h with ⟨v, l, d, rfl, hl⟩ | ⟨a, v, -, hw⟩ | ⟨level, rfl, rfl⟩
  · exact .inr ⟨hp, rfl, hl⟩
  · rcases hostWrite_cases a v s with ⟨e, -⟩ | ⟨e, -, -⟩ | ⟨e, -, -, -⟩ | ⟨-, -, -, hb⟩
    · cases e.symm.trans hw
      exact .inr ⟨hp, rfl, .inl rfl⟩
    · cases e.symm.trans hw
      rcases statusWrite_cases v s with ⟨-, e⟩ | ⟨-, e⟩ <;> rw [e] <;> exact .inr ⟨hp, rfl, .inl rfl⟩
    · cases e.symm.trans hw
      exact .inr ⟨hp, rfl, .inl rfl⟩
    · rw [State.busy, hp] at hb
      cases hb
  · rcases rstChange_cases level s with ⟨rfl, e⟩ | ⟨-, hr, e⟩ | ⟨-, -, e⟩ <;> rw [e]
    · exact .inl ⟨rfl, .inl rfl⟩
    · exact .inl ⟨rfl, .inr hr⟩
    · exact .inr ⟨hp, rfl, .inl rfl⟩

/-- With a command pending, a step is its transition, or rst abandons it, or it stays with one event less to wait for. -/
theorem step_while_pending {s t : State} {p : Pending} (hp : s.pending = some p) (h : step s = .next t) :
    (t.pending = none ∧ (step s = engineStep p.word s ∨ .rst true ∈ s.inbox ∨ s.rst = true)) ∨
    (t.pending = some p.tick ∧ p.wait ≠ 0 ∧ SameOperands s t ∧ (.rst true ∈ t.inbox → .rst true ∈ s.inbox)) := by
  rcases step_cases s with ⟨-, hp', -⟩ | ⟨q, hq, -, e⟩ | ⟨op, rest, -, hp', -⟩ | ⟨op, rest, q, hi, hq, hw, e⟩
  · cases hp.symm.trans hp'
  · cases hp.symm.trans hq
    exact .inl ⟨(engineStep_completes (e.symm.trans h)).1, .inl e⟩
  · cases hp.symm.trans hp'
  · cases hp.symm.trans hq
    rw [hi]
    have htick : SameOperands s ((s.setInbox rest).setPending (some p.tick)) := rfl
    rcases busEvent_while_pending (State.setPending_pending _ _) (e.symm.trans h) with ⟨ht, hr⟩ | ⟨ht, hsame, hl⟩
    · exact .inl ⟨ht, .inr (hr.imp_left fun ho : op = .rst true => ho ▸ List.mem_cons_self)⟩
    · refine .inr ⟨ht, hw, htick.trans hsame, fun hm => List.mem_cons_of_mem _ ?_⟩
      rcases hl with hl | hl <;> rw [hl] at hm
      · exact hm
      · exact (List.mem_cons.1 hm).resolve_left (by simp)

/-- Settles O50: the case of a step in which the command stays pending. -/
theorem operandsAreFrozenWhileBusy : Obligations.OperandsAreFrozenWhileBusy := by
  unfold Obligations.OperandsAreFrozenWhileBusy
  intro s t p q h hp hq
  rcases step_while_pending hp h with ⟨ht, -⟩ | ⟨ht, -, hsame, -⟩
  · cases hq.symm.trans ht
  · cases hq.symm.trans ht
    exact ⟨rfl, hsame⟩

/-- Each step counts the wait down, so the command is over one step after it at the latest (R51, R281). -/
theorem run_pending_over (n : Nat) {s : State} {p : Pending} (hw : p.wait = n) (hs : s.Inv) (hh : s.hostSupported = true)
    (hp : s.pending = some p) : ∃ k ≤ n + 1, ∃ t, Host.Core.run core k s = .next t ∧ t.busy = false := by
  induction n generalizing s p with
  | zero =>
    obtain ⟨t, h, -, -⟩ := supportedHostNeverStops s hs hh
    rcases step_while_pending hp h with ⟨ht, -⟩ | ⟨-, hne, -⟩
    · exact ⟨1, Nat.le_refl _, t, run_succ 0 h, by rw [State.busy, ht]; rfl⟩
    · exact absurd hw hne
  | succ n ih =>
    obtain ⟨t, h, hinv, hsup⟩ := supportedHostNeverStops s hs hh
    rcases step_while_pending hp h with ⟨ht, -⟩ | ⟨ht, -, -⟩
    · exact ⟨1, by omega, t, run_succ 0 h, by rw [State.busy, ht]; rfl⟩
    · obtain ⟨k, hk, u, hu, hb⟩ := ih (p := p.tick) (by simp [Pending.tick, hw]) hinv hsup ht
      exact ⟨k + 1, by omega, u, (run_succ k h).trans hu, hb⟩

/-- Where no assertion of rst is to come, the engine's transition comes after at most the wait, at the operands the command had
(R51, R83). -/
theorem run_to_engine_turn (n : Nat) {s : State} {p : Pending} (hw : p.wait = n) (hs : s.Inv) (hh : s.hostSupported = true)
    (hp : s.pending = some p) (hr : BusOp.rst true ∉ s.inbox) :
    ∃ k ≤ n, ∃ u, Host.Core.run core k s = .next u ∧ step u = engineStep p.word u ∧ SameOperands s u := by
  induction n generalizing s p with
  | zero => exact ⟨0, Nat.le_refl _, s, rfl, step_of_engine_turn hp (.inr hw), .refl s⟩
  | succ n ih =>
    obtain ⟨t, h, hinv, hsup⟩ := supportedHostNeverStops s hs hh
    rcases step_while_pending hp h with ⟨-, e | hmem | hrst⟩ | ⟨ht, -, hsame, hmem⟩
    · exact ⟨0, Nat.zero_le _, s, rfl, e, .refl s⟩
    · exact absurd hmem hr
    · cases (hs.rst_idle hrst).symm.trans hp
    · obtain ⟨k, hk, u, hu, e, hsame'⟩ := ih (p := p.tick) (by simp [Pending.tick, hw]) hinv hsup ht (mt hmem hr)
      exact ⟨k + 1, by omega, u, (run_succ k h).trans hu, e, hsame.trans hsame'⟩

/-- Settles O57, by induction on the command's wait. -/
theorem pendingCommandIsTaken : Obligations.PendingCommandIsTaken := by
  unfold Obligations.PendingCommandIsTaken
  exact fun s p hs hh hp => ⟨run_pending_over _ rfl hs hh hp, run_to_engine_turn _ rfl hs hh hp⟩

end Sys2Proof.Machine
end

section
/-! SUPPORT. STATUS, the address map word by word, and the reset values: the statements of the family `10_state.md` about the host
interface. -/

namespace Sys2Proof

/-! ### Words of a generator state, and bits of a word -/

theorem GenState.word_setWord (g : GenState) (w : Word) (k j : Fin 4) :
    (g.setWord w k.val).word j.val = if j = k then w else g.word j.val := by
  match k, j with
  | 0, 0 | 0, 1 | 0, 2 | 0, 3 | 1, 0 | 1, 1 | 1, 2 | 1, 3 | 2, 0 | 2, 1 | 2, 2 | 2, 3 | 3, 0 | 3, 1 | 3, 2 | 3, 3 => rfl

/-- Position j of a word is its bit 31 − j (R12, R74). -/
theorem getLsbD_eq_getMsbD (w : Word) {j : Nat} (h : j < 32) : w.getLsbD (31 - j) = w.getMsbD j := by
  rw [BitVec.getMsbD_eq_getLsbD, decide_eq_true h, Bool.true_and]

/-- The low half of a word, zero-extended, is the word under the mask of its bits [15:0] (R39, R40). -/
theorem setWidth_setWidth_16 (v : Word) : (v.setWidth 16).setWidth 32 = v &&& 0x0000FFFF := by
  apply BitVec.eq_of_toNat_eq
  have h : v.toNat &&& 65535 = v.toNat % 65536 := Nat.and_two_pow_sub_one_eq_mod v.toNat 16
  rw [BitVec.toNat_setWidth, BitVec.toNat_setWidth, Nat.mod_eq_of_lt (by omega)]
  exact h.symm

namespace Machine

/-! ### Accesses to STATUS, and accesses while BUSY = 1 (R34, R81) -/

/-- Outside rst a read of STATUS returns it, whether a command is pending or not, and faults on a reserved ERR code (R34, U5). -/
theorem busEvent_read_status {s : State} (hr : s.rst = false) :
    busEvent (.read .word Loc.status.offset) s =
      if errReserved s.err then .fault .reservedErrCode else .next (s.setRdata s.statusWord) := by
  rw [busEvent, if_pos (accessSupported_offset _), hostRead, Loc.ofOffset_offset]
  simp [hr, Loc.readsWhileBusy, State.peek]

theorem busEvent_write_status {s : State} (hr : s.rst = false) (v : Word) :
    busEvent (.write .word Loc.status.offset v) s = .next (statusWrite v s) := by
  rw [busEvent, if_pos (accessSupported_offset _), hostWrite, Loc.ofOffset_offset]
  simp [hr]

theorem busEvent_write_busy {s : State} {a : BitVec 16} {v : Word} (hr : s.rst = false) (hb : s.busy = true)
    (ha : a.toNat % 4 = 0) (hs : Loc.ofOffset a ≠ .status) : busEvent (.write .word a v) s = .next (s.setOvr true) := by
  rw [busEvent, if_pos (accessSupported_word ha)]
  simp only [hostWrite, hr, hb, Bool.false_eq_true, if_false, if_true, if_neg hs]

/-- The four low bits of STATUS, each appended to the word below them (R34). -/
theorem State.getLsbD_statusWord (s : State) (i : Nat) :
    s.statusWord.getLsbD i = if i = 0 then s.busy else if i = 1 then s.eqFlag else if i = 2 then s.incon
      else if i = 3 then s.ovr else (0#24 ++ s.err).getLsbD (i - 4) := by
  show (((((0#24 ++ s.err).concat s.ovr).concat s.incon).concat s.eqFlag).concat s.busy).getLsbD i = _
  simp only [BitVec.getLsbD_concat]
  match i with
  | 0 | 1 | 2 | 3 => rfl
  | i + 4 => rfl

/-- After a reset every field of STATUS is 0 (R53). -/
theorem State.statusWord_resetWith (d : Nat) (l : List BusOp) (v : Word) : (State.resetWith d l v).statusWord = 0 := by
  show (0#24 ++ 0#4 ++ BitVec.ofBool false ++ BitVec.ofBool false ++ BitVec.ofBool false ++ BitVec.ofBool false :
    BitVec (24 + 4 + 1 + 1 + 1 + 1)) = 0
  decide

/-- Settles O41: the fields by where they are appended, the accesses by the STATUS read and write outside rst. -/
theorem statusFields : Obligations.StatusFields := by
  unfold Obligations.StatusFields
  refine ⟨fun s => ⟨?_, ?_, ?_, ?_, ?_, ?_⟩, fun s hr he => ?_, fun s v hr => busEvent_write_status hr v,
    State.statusWord_resetWith 0 [] 0⟩
  · exact s.getLsbD_statusWord 0
  · exact s.getLsbD_statusWord 1
  · exact s.getLsbD_statusWord 2
  · exact s.getLsbD_statusWord 3
  · unfold State.statusWord
    rw [extract_append_high _ _ _ (by decide), extract_append_high _ _ _ (by decide), extract_append_high _ _ _ (by decide),
      extract_append_high _ _ _ (by decide), extract_append_low _ _ (by decide) (by decide)]
    exact BitVec.extractLsb'_eq_self
  · unfold State.statusWord
    rw [extract_append_high _ _ _ (by decide), extract_append_high _ _ _ (by decide), extract_append_high _ _ _ (by decide),
      extract_append_high _ _ _ (by decide), extract_append_high _ _ _ (by decide)]
    exact BitVec.extractLsb'_eq_self
  · have hn : ¬ errReserved s.err = true := fun h => Nat.not_lt.2 he ((errReserved_iff _).1 h)
    exact (busEvent_read_status hr).trans (if_neg hn)

/-- Settles O58: the reserved codes are those the STATUS read faults on. -/
theorem reservedErrCodeFaults : Obligations.ReservedErrCodeFaults := by
  unfold Obligations.ReservedErrCodeFaults
  exact fun s hr he => (busEvent_read_status hr).trans (if_pos ((errReserved_iff _).2 he))

/-- Settles O46: the offset is CMD's, whose write starts a command and which holds 0. -/
theorem cmdWriteStartsCommand : Obligations.CmdWriteStartsCommand := by
  unfold Obligations.CmdWriteStartsCommand
  have hne : Loc.ofOffset 0x000C ≠ .status := by decide
  refine ⟨fun s w hr hb => ⟨Config.latency s.draws, s.draws + 1, ?_⟩, fun s w hr hb => ?_, fun s hr hb => ?_⟩
  · exact busEvent_write_idle hr hb rfl hne
  · exact busEvent_write_busy hr hb rfl hne
  · exact busEvent_read_idle hr hb rfl fun e => absurd e hne

/-! ### What a location holds after a write (R38–R46, R73–R78) -/

theorem row_set (A : Matrix) {r q : Nat} (x : Row) (hr : r < 128) (hq : q < 128) :
    BitMat.row (A.set r x) q = if q = r then x else A.row q := by
  rw [BitMat.row_eq_getElem _ hq, BitMat.row_eq_getElem _ hq, Vector.getElem_set]
  simp only [eq_comm]

section peek

variable (s : State) (v : Word) (l : Loc)

theorem peek_poke_gen (k : Fin 4) : (s.poke v (.gen k)).peek l = if l = .gen k then v else s.peek l := by
  cases l with
  | gen j => simp only [State.poke, State.peek, State.setGen_gen, GenState.word_setWord, Loc.gen.injEq]
  | _ => exact (if_neg nofun).symm

theorem peek_poke_eqn (r : Fin 256) (k : Fin 4) :
    (s.poke v (.eqn r k)).peek l = if l = .eqn r k then v else s.peek l := by
  cases l with
  | eqn q j =>
    simp only [State.poke, State.peek, State.setEqns_eqns, Loc.eqn.injEq, Fin.ext_iff, Vector.getElem_set]
    by_cases hq : r.val = q.val
    · simp [hq, rowWord_setRowWord]
    · simp [hq, Ne.symm hq]
  | _ => exact (if_neg nofun).symm

theorem peek_setRhs_of_ne (b : Vector Bool 256) (h : ∀ i, l ≠ .rhs i) : (s.setRhs b).peek l = s.peek l := by
  cases l with
  | rhs i => exact absurd rfl (h i)
  | _ => rfl

theorem peek_poke_rhs (i : Fin 8) : (s.poke v (.rhs i)).peek l = if l = .rhs i then v else s.peek l := by
  cases l with
  | rhs j =>
    simp only [State.poke, State.peek, State.setRhs_rhs, Loc.rhs.injEq, Fin.ext_iff]
    apply BitVec.eq_of_getMsbD_eq
    intro p hp
    have hdiv : (32 * j.val + p) / 32 = j.val := by omega
    have hmod : (32 * j.val + p) % 32 = p := by omega
    rw [getMsbD_rhsWord _ j.isLt hp, getElem_setRhsWord _ _ _ (by omega), hdiv, hmod, apply_ite (BitVec.getMsbD · p),
      getMsbD_rhsWord _ j.isLt hp]
  | _ => exact (peek_setRhs_of_ne s _ _ (by simp)).trans (if_neg nofun).symm

theorem peek_poke_gap (i : Fin 64) : (s.poke v (.gap i)).peek l = if l = .gap i then v else s.peek l := by
  cases l with
  | gap j => simp only [State.poke, State.peek, State.setGaps_gaps, Loc.gap.injEq, Fin.ext_iff, Vector.getElem_set, eq_comm]
  | _ => exact (if_neg nofun).symm

theorem peek_poke_mat (m : MatReg) (r : Fin 128) (k : Fin 4) :
    (s.poke v (.mat m r k)).peek l = if l = .mat m r k then v else s.peek l := by
  cases l with
  | mat m' q j =>
    simp only [State.poke, State.peek, Loc.mat.injEq]
    by_cases hm : m' = m
    · rw [hm, State.mat_setMat_self, row_set _ _ r.isLt q.isLt]
      by_cases hq : q.val = r.val
      · simp [hq, Fin.ext_iff, rowWord_setRowWord]
      · simp [hq, Fin.ext_iff]
    · simp [State.mat_setMat_ne _ hm, hm]
  | _ => exact (if_neg nofun).symm

/-- A write to a read-write register or a window word stores there and changes no other location. -/
theorem peek_poke {l' : Loc} (hw : l'.writable = true) :
    (s.poke v l').peek l = if l = l' then l'.stored v else s.peek l := by
  cases l' with
  | arg =>
    cases l with
    | arg => exact (if_pos rfl).symm
    | _ => exact (if_neg nofun).symm
  | nrows =>
    cases l with
    | nrows => exact (setWidth_setWidth_16 v).trans (if_pos rfl).symm
    | _ => exact (if_neg nofun).symm
  | ngap =>
    cases l with
    | ngap => exact (setWidth_setWidth_16 v).trans (if_pos rfl).symm
    | _ => exact (if_neg nofun).symm
  | gen k => exact peek_poke_gen s v l k
  | eqn r k => exact peek_poke_eqn s v l r k
  | rhs i => exact peek_poke_rhs s v l i
  | gap i => exact peek_poke_gap s v l i
  | mat m r k => exact peek_poke_mat s v l m r k
  | id | cfg | status | cmd | rankCol | out | reserved => cases hw

end peek

/-- Read-only registers and reserved offsets ignore the write (R32, R33, R36, R41, R78). -/
theorem poke_of_not_writable (s : State) (v : Word) {l : Loc} (hw : l.writable = false) (hc : l ≠ .cmd) : s.poke v l = s := by
  cases l with
  | cmd => exact absurd rfl hc
  | arg | nrows | ngap | gen | eqn | rhs | gap | mat => cases hw
  | id | cfg | status | rankCol | out | reserved => rfl

/-- Settles O45: a write is the location's own, and a read of what it left returns what the location holds. -/
theorem writtenWordsReadBack : Obligations.WrittenWordsReadBack := by
  unfold Obligations.WrittenWordsReadBack
  refine ⟨fun s a hr hb ha he => busEvent_read_idle hr hb ha he, fun s a v hr hb ha hs hc => ?_⟩
  have hp : s.pending = none := Option.isNone_iff_eq_none.1 (by simpa [State.busy] using hb)
  have hp' : (s.poke v (Loc.ofOffset a)).pending = none := (s.poke_pending v hc).trans hp
  have hr' : (s.poke v (Loc.ofOffset a)).rst = false := (s.poke_rst v _).trans hr
  refine ⟨_, busEvent_write_idle hr hb ha hs, fun hw => ?_, fun hw => poke_of_not_writable s v hw hc, fun b hne => ?_,
    hp', hr', s.poke_rdata v _, s.poke_inbox v _, s.poke_draws v hc⟩
  · have hpeek := (peek_poke s v (Loc.ofOffset a) hw).trans (if_pos rfl)
    have hb' : (s.poke v (Loc.ofOffset a)).busy = false := by rw [State.busy, hp']; rfl
    exact ⟨hpeek, hpeek ▸ busEvent_read_idle hr' hb' ha fun e => absurd e hs⟩
  · cases hw : (Loc.ofOffset a).writable with
    | true => exact (peek_poke s v _ hw).trans (if_neg hne)
    | false => rw [poke_of_not_writable s v hw hc]

/-! ### Accesses by byte offset (R72–R77) -/

/-- While BUSY = 0, a read at a location's offset returns what it holds. -/
theorem readsAs_peek {s : State} (hr : s.rst = false) (hb : s.busy = false) {a : Nat} {l : Loc}
    (ha : BitVec.ofNat 16 a = l.offset) (he : l = .status → s.err.toNat ≤ 3) : s.ReadsAs a (s.peek l) := by
  have h := busEvent_read_idle (a := l.offset) hr hb (by simpa [accessSupported] using accessSupported_offset l)
    (by rwa [Loc.ofOffset_offset])
  rw [State.ReadsAs, ha, h, Loc.ofOffset_offset]
  rfl

theorem writeLeaves_poke {s : State} (hr : s.rst = false) (hb : s.busy = false) {a : Nat} {l : Loc}
    (ha : BitVec.ofNat 16 a = l.offset) (hs : l ≠ .status) (v : Word) : s.WriteLeaves a v (s.poke v l) := by
  have h := busEvent_write_idle (a := l.offset) (v := v) hr hb (by simpa [accessSupported] using accessSupported_offset l)
    (by rwa [Loc.ofOffset_offset])
  rw [State.WriteLeaves, ha, h, Loc.ofOffset_offset]

theorem State.eqn_eq_getElem (s : State) {r : Nat} (h : r < 256) : s.eqn r = s.eqns[r] := by simp [State.eqn, h]

theorem State.rhsBit_eq_getElem (s : State) {r : Nat} (h : r < 256) : s.rhsBit r = s.rhs[r] := by simp [State.rhsBit, h]

/-- Column 32·k + j of a row is bit 31 − j of its word k (R74). -/
theorem getLsbD_rowWord (row : Row) {k j : Nat} (hk : k < 4) (hj : j < 32) :
    (rowWord row k).getLsbD (31 - j) = row.getMsbD (32 * k + j) :=
  (getLsbD_eq_getMsbD _ hj).trans (getMsbD_rowWord row hk hj)

theorem getMsbD_setRowWord_getLsbD (row : Row) (k : Nat) (v : Word) {c : Nat} (hc : c < 128) :
    (setRowWord row k v).getMsbD c = if c / 32 = k then v.getLsbD (31 - c % 32) else row.getMsbD c := by
  rw [getMsbD_setRowWord row k v hc, getLsbD_eq_getMsbD v (by omega)]

section windows

variable {s : State} (hr : s.rst = false) (hb : s.busy = false) (v : Word)

include hr hb

/-- Every register by its byte offset: what is read there (R32, R33, R35–R41, R72). -/
theorem readsAs_registers :
    s.ReadsAs 0x0000 0x47463201 ∧ s.ReadsAs 0x0004 0x10400100 ∧ s.ReadsAs 0x000C 0 ∧ s.ReadsAs 0x0010 s.arg ∧
      s.ReadsAs 0x0014 (s.nrows.setWidth 32) ∧ s.ReadsAs 0x0018 (s.ngap.setWidth 32) ∧
      s.ReadsAs 0x001C (s.rankCol.setWidth 32) ∧ s.ReadsAs 0x0020 s.gen.s0 ∧ s.ReadsAs 0x0024 s.gen.s1 ∧
      s.ReadsAs 0x0028 s.gen.s2 ∧ s.ReadsAs 0x002C s.gen.s3 ∧ s.ReadsAs 0x0030 s.out := by
  have R (l : Loc) {a : Nat} (ha : BitVec.ofNat 16 a = l.offset) (hl : l ≠ .status) : s.ReadsAs a (s.peek l) :=
    readsAs_peek hr hb ha fun e => absurd e hl
  exact ⟨R .id rfl nofun, R .cfg rfl nofun, R .cmd rfl nofun, R .arg rfl nofun, R .nrows rfl nofun, R .ngap rfl nofun,
    R .rankCol rfl nofun, R (.gen 0) rfl nofun, R (.gen 1) rfl nofun, R (.gen 2) rfl nofun, R (.gen 3) rfl nofun,
    R .out rfl nofun⟩

/-- What a write there leaves (R32, R33, R35–R41, R72). -/
theorem writeLeaves_registers :
    s.WriteLeaves 0x0000 v s ∧ s.WriteLeaves 0x0004 v s ∧ s.WriteLeaves 0x0010 v { s with arg := v } ∧
      s.WriteLeaves 0x0014 v { s with nrows := v.extractLsb' 0 16 } ∧
      s.WriteLeaves 0x0018 v { s with ngap := v.extractLsb' 0 16 } ∧ s.WriteLeaves 0x001C v s ∧
      s.WriteLeaves 0x0020 v { s with gen := { s.gen with s0 := v } } ∧
      s.WriteLeaves 0x0024 v { s with gen := { s.gen with s1 := v } } ∧
      s.WriteLeaves 0x0028 v { s with gen := { s.gen with s2 := v } } ∧
      s.WriteLeaves 0x002C v { s with gen := { s.gen with s3 := v } } ∧ s.WriteLeaves 0x0030 v s := by
  have W (l : Loc) {a : Nat} (ha : BitVec.ofNat 16 a = l.offset) (hl : l ≠ .status) : s.WriteLeaves a v (s.poke v l) :=
    writeLeaves_poke hr hb ha hl v
  rw [← BitVec.setWidth_eq_extractLsb' (by omega)]
  exact ⟨W .id rfl nofun, W .cfg rfl nofun, W .arg rfl nofun, W .nrows rfl nofun, W .ngap rfl nofun, W .rankCol rfl nofun,
    W (.gen 0) rfl nofun, W (.gen 1) rfl nofun, W (.gen 2) rfl nofun, W (.gen 3) rfl nofun, W .out rfl nofun⟩

/-- The word at 0x1000 + 16·r + 4·k is columns 32·k .. 32·k+31 of E[r] (R74). -/
theorem eqn_window {r k : Nat} (hr' : r < 256) (hk : k < 4) :
    (∃ w, s.ReadsAs (0x1000 + 16 * r + 4 * k) w ∧ ∀ j < 32, w.getLsbD (31 - j) = (s.eqn r).getMsbD (32 * k + j)) ∧
    ∃ E, s.WriteLeaves (0x1000 + 16 * r + 4 * k) v { s with eqns := E } ∧
      ∀ q < 256, ∀ c < 128, (E[q]?.getD 0).getMsbD c =
        if q = r ∧ c / 32 = k then v.getLsbD (31 - c % 32) else (s.eqn q).getMsbD c := by
  refine ⟨⟨_, readsAs_peek (l := .eqn ⟨r, hr'⟩ ⟨k, hk⟩) hr hb rfl nofun, fun j hj => ?_⟩,
    _, writeLeaves_poke (l := .eqn ⟨r, hr'⟩ ⟨k, hk⟩) hr hb rfl nofun v, fun q hq c hc => ?_⟩
  · rw [State.eqn_eq_getElem s hr']
    exact getLsbD_rowWord _ hk hj
  · by_cases hqr : q = r
    · subst hqr
      simp [hq, getMsbD_setRowWord_getLsbD _ _ _ hc, State.eqn]
    · simp [hqr, Ne.symm hqr, State.eqn]

/-- The word at 0x2000 + 4·i is RHS[32·i .. 32·i+31] (R75). -/
theorem rhs_window {i : Nat} (hi : i < 8) :
    (∃ w, s.ReadsAs (0x2000 + 4 * i) w ∧ ∀ j < 32, w.getLsbD (31 - j) = s.rhsBit (32 * i + j)) ∧
    ∃ b, s.WriteLeaves (0x2000 + 4 * i) v { s with rhs := b } ∧
      ∀ q < 256, b[q]?.getD false = if q / 32 = i then v.getLsbD (31 - q % 32) else s.rhsBit q := by
  refine ⟨⟨_, readsAs_peek (l := .rhs ⟨i, hi⟩) hr hb rfl nofun, fun j hj => ?_⟩,
    _, writeLeaves_poke (l := .rhs ⟨i, hi⟩) hr hb rfl nofun v, fun q hq => ?_⟩
  · rw [State.rhsBit_eq_getElem s (by omega)]
    exact (getLsbD_eq_getMsbD _ hj).trans (getMsbD_rhsWord _ hi hj)
  · rw [State.rhsBit_eq_getElem s hq, getLsbD_eq_getMsbD _ (by omega)]
    simp [hq, getElem_setRhsWord]

/-- The word at 0x3000 + 4·i is G[i] (R77). -/
theorem gap_window {i : Nat} (hi : i < 64) :
    (∃ w, s.ReadsAs (0x3000 + 4 * i) w ∧ s.gaps[i]? = some w) ∧
    ∃ G, s.WriteLeaves (0x3000 + 4 * i) v { s with gaps := G } ∧
      ∀ q < 64, G[q]? = if q = i then some v else s.gaps[q]? := by
  refine ⟨⟨_, readsAs_peek (l := .gap ⟨i, hi⟩) hr hb rfl nofun, Vector.getElem?_eq_getElem hi⟩,
    _, writeLeaves_poke (l := .gap ⟨i, hi⟩) hr hb rfl nofun v, fun q hq => ?_⟩
  simp [Vector.getElem?_set, eq_comm]

/-- The word at 0x8000 + 0x800·m + 16·r + 4·k is columns 32·k .. 32·k+31 of row r of M[m] (R76). -/
theorem mat_window (m : MatReg) {r k : Nat} (hr' : r < 128) (hk : k < 4) :
    (∃ w, s.ReadsAs (0x8000 + 0x800 * m.val + 16 * r + 4 * k) w ∧
      ∀ j < 32, w.getLsbD (31 - j) = (s.mat m).bit r (32 * k + j)) ∧
    ∃ A, s.WriteLeaves (0x8000 + 0x800 * m.val + 16 * r + 4 * k) v { s with mats := s.mats.set m.val A } ∧
      ∀ q < 128, ∀ c < 128, A.bit q c =
        if q = r ∧ c / 32 = k then v.getLsbD (31 - c % 32) else (s.mat m).bit q c := by
  refine ⟨⟨_, readsAs_peek (l := .mat m ⟨r, hr'⟩ ⟨k, hk⟩) hr hb rfl nofun, fun j hj => ?_⟩,
    _, writeLeaves_poke (l := .mat m ⟨r, hr'⟩ ⟨k, hk⟩) hr hb rfl nofun v, fun q hq c hc => ?_⟩
  · exact getLsbD_rowWord _ hk hj
  · rw [BitMat.bit, row_set _ _ hr' hq]
    by_cases hqr : q = r
    · simp [hqr, getMsbD_setRowWord_getLsbD _ _ _ hc, BitMat.bit]
    · simp [hqr, BitMat.bit]

end windows

/-- Settles O59: the registers, then each window, through the locations their offsets name. -/
theorem addressMapAndBitOrder : Obligations.AddressMapAndBitOrder := by
  unfold Obligations.AddressMapAndBitOrder
  exact fun s v hr hb => ⟨readsAs_registers hr hb, writeLeaves_registers hr hb v, fun r hr' k hk => eqn_window hr hb v hr' hk,
    fun i hi => rhs_window hr hb v hi, fun i hi => gap_window hr hb v hi, fun m r hr' k hk => mat_window hr hb v m hr' hk⟩

/-- The registers a reset leaves at 0 (R53). -/
def zeroAtReset : List Loc :=
  [.status, .cmd, .arg, .nrows, .ngap, .rankCol, .gen 0, .gen 1, .gen 2, .gen 3, .out]

theorem peek_resetWith_of_mem (d : Nat) (l : List BusOp) (v : Word) {loc : Loc} (h : loc ∈ zeroAtReset) :
    (State.resetWith d l v).peek loc = 0 := by
  simp only [zeroAtReset, List.mem_cons, List.not_mem_nil, or_false] at h
  rcases h with rfl | rfl | rfl | rfl | rfl | rfl | rfl | rfl | rfl | rfl | rfl
  · exact State.statusWord_resetWith d l v
  all_goals rfl

/-- Settles O52: the values a reset leaves, and the reads of them. -/
theorem resetRegisterValues : Obligations.ResetRegisterValues := by
  unfold Obligations.ResetRegisterValues
  intro d l v s
  have hz {loc : Loc} (h : loc ∈ zeroAtReset) : s.peek loc = 0 := peek_resetWith_of_mem d l v h
  have hread (loc : Loc) : s.ReadsAs loc.offset.toNat (s.peek loc) :=
    readsAs_peek rfl rfl (by simp) fun _ => (State.resetWith_inv d l v).err_produced
  refine ⟨rfl, rfl, hz (by decide), hz (by decide), hz (by decide), hz (by decide), hz (by decide), fun k => hz ?_,
    hz (by decide), rfl, rfl, rfl, hread .id, hread .cfg, fun a ha => ?_⟩
  · revert k; decide
  · obtain ⟨loc, hloc, rfl⟩ : ∃ loc ∈ zeroAtReset, loc.offset.toNat = a := List.mem_map.1 ha
    exact hz hloc ▸ hread loc

end Machine

end Sys2Proof
end

section
/-! SUPPORT. What an access answers by the location it names and by BUSY, and that accesses repeat: the statements of the family
`20_memory.md`. -/

namespace Sys2Proof

/-! ### The same word stored twice (R89) -/

theorem GenState.setWord_setWord (g : GenState) (w : Word) (k : Fin 4) : (g.setWord w k.val).setWord w k.val = g.setWord w k.val := by
  match k with
  | 0 | 1 | 2 | 3 => rfl

theorem setRowWord_setRowWord (row : Row) (k : Nat) (w : Word) : setRowWord (setRowWord row k w) k w = setRowWord row k w := by
  apply Row.ext_words
  intro j hj
  simp +contextual [rowWord_setRowWord _ _ _ hj]

namespace Machine

theorem setRhsWord_setRhsWord (b : Vector Bool 256) (i : Nat) (v : Word) :
    setRhsWord (setRhsWord b i v) i v = setRhsWord b i v := by
  apply Vector.ext
  intro r hr
  simp +contextual [getElem_setRhsWord _ _ _ hr]

/-- A write to anything but CMD leaves what the same write would leave again; CMD would start the command anew (R42). -/
theorem State.poke_poke (s : State) (v : Word) {l : Loc} (hc : l ≠ .cmd) : (s.poke v l).poke v l = s.poke v l := by
  cases l with
  | cmd => exact absurd rfl hc
  | id | cfg | status | arg | nrows | ngap | rankCol | out | reserved => rfl
  | gen k => exact congrArg s.setGen (GenState.setWord_setWord s.gen v k)
  | eqn r k => simp [State.poke, State.setEqns, setRowWord_setRowWord]
  | rhs i => simp [State.poke, State.setRhs, setRhsWord_setRhsWord]
  | gap i => simp [State.poke, State.setGaps]
  | mat m r k => simp [State.poke, State.setMat, State.mat, row_set, setRowWord_setRowWord]

theorem statusWrite_statusWrite (v : Word) (s : State) : statusWrite v (statusWrite v s) = statusWrite v s := by
  rcases statusWrite_cases v s with ⟨hv, e⟩ | ⟨-, e⟩
  · rw [e, statusWrite, if_pos hv]
    rfl
  · rw [e, e]

/-! ### A read, a write and a poll, by location and BUSY (R71, R78, R80, R81, R84) -/

/-- Outside rst, where BUSY does not keep it back, a read returns what the location holds (R73, R80). -/
theorem hostRead_current {s : State} {a : BitVec 16} (hr : s.rst = false)
    (hb : s.busy = false ∨ (Loc.ofOffset a).readsWhileBusy = true) :
    hostRead a s = if Loc.ofOffset a = .status ∧ errReserved s.err then .fault .reservedErrCode
      else .next (s.setRdata (s.peek (Loc.ofOffset a))) := by
  have h : ¬ (s.rst || (s.busy && !(Loc.ofOffset a).readsWhileBusy)) = true := by
    rcases hb with hb | hb <;> simp [hr, hb]
  exact if_neg h

theorem busEvent_read_current {s : State} {a : BitVec 16} (hr : s.rst = false) (he : s.err.toNat ≤ 3) (ha : a.toNat % 4 = 0)
    (hl : (Loc.ofOffset a).readsWhileBusy = true) :
    busEvent (.read .word a) s = .next (s.setRdata (s.peek (Loc.ofOffset a))) := by
  rw [busEvent, if_pos (accessSupported_word ha), hostRead_current hr (.inr hl)]
  exact if_neg fun ⟨_, h⟩ => Nat.not_lt.2 he ((errReserved_iff _).1 h)

theorem busEvent_read_free {s : State} {a : BitVec 16} (hb : s.busy = true) (ha : a.toNat % 4 = 0)
    (hl : (Loc.ofOffset a).readsWhileBusy = false) :
    busEvent (.read .word a) s = .next ((s.setRdata (Config.freeRead s.draws)).drawn) := by
  rw [busEvent, if_pos (accessSupported_word ha)]
  exact if_pos (by simp [hb, hl])

theorem Loc.readsWhileBusy_of_ne {l : Loc} (hi : l ≠ .id) (hc : l ≠ .cfg) (hs : l ≠ .status) : l.readsWhileBusy = false := by
  cases l with
  | id => exact absurd rfl hi
  | cfg => exact absurd rfl hc
  | status => exact absurd rfl hs
  | _ => rfl

/-- A write to any offset that names STATUS is performed at any time outside rst (R34). -/
theorem busEvent_write_of_status {s : State} {a : BitVec 16} (hr : s.rst = false) (ha : a.toNat % 4 = 0)
    (hs : Loc.ofOffset a = .status) (v : Word) : busEvent (.write .word a v) s = .next (statusWrite v s) := by
  rw [busEvent, if_pos (accessSupported_word ha)]
  simp only [hostWrite, hr, hs, Bool.false_eq_true, if_false, if_true]

theorem Loc.ofRegIndex_of_ge {n : Nat} (h : 13 ≤ n) : Loc.ofRegIndex n = .reserved := by
  obtain ⟨k, rfl⟩ := Nat.exists_eq_add_of_le' h
  rfl

theorem Loc.ofOffset_reserved {a : BitVec 16}
    (h : (0x0034 ≤ a.toNat ∧ a.toNat ≤ 0x0FFF) ∨ (0x2020 ≤ a.toNat ∧ a.toNat ≤ 0x2FFF) ∨
      (0x3100 ≤ a.toNat ∧ a.toNat ≤ 0x7FFF)) : Loc.ofOffset a = .reserved := by
  unfold Loc.ofOffset
  rcases h with ⟨hlo, hhi⟩ | ⟨hlo, hhi⟩ | ⟨hlo, hhi⟩
  · rw [if_pos (by omega), Loc.ofRegIndex_of_ge (by omega)]
  · rw [if_neg (by omega), if_neg (by omega), if_neg (by omega), if_pos (by omega)]
  · rw [if_neg (by omega), if_neg (by omega), if_neg (by omega), if_neg (by omega), if_neg (by omega), if_pos (by omega)]

theorem accessSupported_eq_false {size : AccessSize} {a : BitVec 16} (h : size ≠ .word ∨ a.toNat % 4 ≠ 0) :
    accessSupported size a = false := by
  rcases h with h | h <;> simp [accessSupported, h]

theorem busEvent_poll_of_read_next {s t : State} (h : busEvent (.read .word Loc.status.offset) s = .next t) :
    busEvent .poll s = .next (if t.rdata.getLsbD 0 then t.setInbox (.poll :: t.inbox) else t) := by
  rw [busEvent_poll, h]

theorem busEvent_poll_of_read_fault {s : State} {r : Fault} (h : busEvent (.read .word Loc.status.offset) s = .fault r) :
    busEvent .poll s = .fault r := by
  rw [busEvent_poll, h]

/-- Outside rst a poll reads STATUS, whose bit 0 is BUSY (R34, R84). -/
theorem busEvent_poll_of_rst_low {s : State} (hr : s.rst = false) (he : s.err.toNat ≤ 3) :
    busEvent .poll s =
      .next (if s.busy then (s.setRdata s.statusWord).setInbox (.poll :: s.inbox) else s.setRdata s.statusWord) := by
  have h := busEvent_poll_of_read_next (busEvent_read_current (a := Loc.status.offset) hr he rfl rfl)
  rwa [State.setRdata_rdata, show (s.peek (Loc.ofOffset Loc.status.offset)).getLsbD 0 = s.busy from s.getLsbD_statusWord 0] at h

/-! ### Accesses repeated (R89) -/

theorem State.peek_setRdata (s : State) (v : Word) (l : Loc) : (s.setRdata v).peek l = s.peek l := by
  cases l <;> rfl

/-- What an idle read answers does not depend on what was read before it. -/
theorem hostRead_setRdata {s : State} (hr : s.rst = false) (hb : s.busy = false) (a : BitVec 16) (v : Word) :
    hostRead a (s.setRdata v) = hostRead a s := by
  rw [hostRead_current hr (.inl hb), hostRead_current (s := s.setRdata v) hr (.inl hb), State.peek_setRdata]
  rfl

theorem hostRead_again {a : BitVec 16} {s t : State} (hr : s.rst = false) (hb : s.busy = false)
    (h : hostRead a s = .next t) : hostRead a t = .next t := by
  rcases hostRead_cases a s with ⟨v, -, hr' | hb'⟩ | ⟨e, -⟩ | e
  · exact absurd (hr.symm.trans hr') Bool.false_ne_true
  · exact absurd (hb.symm.trans hb') Bool.false_ne_true
  · cases e.symm.trans h
  · cases e.symm.trans h
    exact (hostRead_setRdata hr hb a _).trans e

theorem statusWrite_rst (v : Word) (s : State) : (statusWrite v s).rst = s.rst := by
  rcases statusWrite_cases v s with ⟨-, e⟩ | ⟨-, e⟩ <;> rw [e]
  rfl

theorem busEvent_write_again {a : BitVec 16} {v : Word} {s t : State} (hb : s.busy = false) (hc : Loc.ofOffset a ≠ .cmd)
    (h : busEvent (.write .word a v) s = .next t) : busEvent (.write .word a v) t = .next t := by
  have hop : accessSupported .word a = true := supported_of_busEvent_next h
  have ha : a.toNat % 4 = 0 := by simpa [accessSupported] using hop
  have hw : hostWrite a v s = .next t := (if_pos hop).symm.trans h
  rcases hostWrite_cases a v s with ⟨e, -⟩ | ⟨e, hr, hs⟩ | ⟨-, -, -, hb'⟩ | ⟨e, hr, hs, -⟩
  · cases e.symm.trans hw
    exact h
  · cases e.symm.trans hw
    rw [busEvent_write_of_status ((statusWrite_rst v s).trans hr) ha hs, statusWrite_statusWrite]
  · exact absurd (hb.symm.trans hb') Bool.false_ne_true
  · cases e.symm.trans hw
    have hp : (s.poke v (Loc.ofOffset a)).busy = false := by rw [State.busy, s.poke_pending v hc]; exact hb
    rw [busEvent_write_idle ((s.poke_rst v _).trans hr) hp ha hs, State.poke_poke s v hc]

/-- Settles O44: a read changes only the read data and the draws, an idle one answers the same whatever was read before it, and what a
write to anything but CMD leaves it leaves again. -/
theorem accessesAreIdempotent : Obligations.AccessesAreIdempotent := by
  unfold Obligations.AccessesAreIdempotent
  refine fun s t a => ⟨fun h => ?_, fun hr hb h => ?_, fun v hb hc h => busEvent_write_again hb hc h⟩
  · obtain ⟨v, d, rfl⟩ := hostRead_next ((if_pos (supported_of_busEvent_next h)).symm.trans h)
    rfl
  · have hop := supported_of_busEvent_next h
    exact (if_pos hop).trans (hostRead_again hr hb ((if_pos hop).symm.trans h))

/-! ### The other statements of the family -/

/-- Settles O47: the offsets are reserved ones, which hold 0 and store nothing. -/
theorem reservedOffsetsReadZero : Obligations.ReservedOffsetsReadZero := by
  unfold Obligations.ReservedOffsetsReadZero
  intro s a v hr ha hrange
  have hl : Loc.ofOffset a = .reserved := Loc.ofOffset_reserved hrange
  have hs : Loc.ofOffset a ≠ .status := by rw [hl]; nofun
  refine ⟨fun hb => ⟨?_, ?_⟩, fun hb => busEvent_write_busy hr hb ha hs⟩
  · rw [busEvent_read_idle hr hb ha fun e => absurd e hs, hl]
    rfl
  · rw [busEvent_write_idle hr hb ha hs, hl]
    rfl

/-- Settles O42: by whether the offset names STATUS. -/
theorem busyWritesAreDropped : Obligations.BusyWritesAreDropped := by
  unfold Obligations.BusyWritesAreDropped
  exact fun s a v hr hb ha => ⟨busEvent_write_busy hr hb ha, fun hs => busEvent_write_of_status hr ha hs v⟩

/-- Settles O43: by whether the location is one of the three that BUSY does not keep back. -/
theorem busyReadsAreFree : Obligations.BusyReadsAreFree := by
  unfold Obligations.BusyReadsAreFree
  intro s a hr hb he ha
  have hread {l : Loc} (hl : l.readsWhileBusy = true) (e : Loc.ofOffset a = l) :
      busEvent (.read .word a) s = .next { s with rdata := s.peek l } := by
    subst e
    exact busEvent_read_current hr he ha hl
  exact ⟨hread rfl, hread rfl, hread rfl, fun hi hc hs => busEvent_read_free hb ha (Loc.readsWhileBusy_of_ne hi hc hs)⟩

/-- Settles O48: such an access is not among the supported events. -/
theorem unsupportedAccessIsRefused : Obligations.UnsupportedAccessIsRefused := by
  unfold Obligations.UnsupportedAccessIsRefused
  exact fun s size a v h => ⟨busEvent_of_unsupported (op := .read size a) (accessSupported_eq_false h) s,
    busEvent_of_unsupported (op := .write size a v) (accessSupported_eq_false h) s⟩

/-- Settles O60: by what the read of STATUS answers, and outside rst by BUSY. -/
theorem pollReadsStatusWhileBusy : Obligations.PollReadsStatusWhileBusy := by
  unfold Obligations.PollReadsStatusWhileBusy
  exact ⟨fun s t => busEvent_poll_of_read_next, fun s r => busEvent_poll_of_read_fault, fun s hr he =>
    ⟨fun hb => (busEvent_poll_of_rst_low hr he).trans (congrArg _ (if_pos hb)),
      fun hb => (busEvent_poll_of_rst_low hr he).trans (congrArg _ (if_neg (Bool.eq_false_iff.1 hb)))⟩⟩

end Machine

end Sys2Proof
end

section
/-! SUPPORT. The command word both ways: what decodes, what a word's reserved bits say of its fields, and the rows of the opcode
table; the expansions of the pseudo-instructions: the statements of the family `30_encoding.md`. -/

namespace Sys2Proof

/-! ### What decodes (R106, R107) -/

theorem Opcode.bits_inj {o o' : Opcode} : o.bits = o'.bits ↔ o = o' :=
  ⟨fun h => Option.some.inj ((opcodeOf_bits o).symm.trans (h ▸ opcodeOf_bits o')), congrArg _⟩

/-- A word decodes to a command when it carries an opcode, its reserved bits are 0 and its operands are legal. -/
theorem decode_eq_ok_iff {w : Word} {i : Instr} :
    decode w = .ok i ↔ ∃ o : Opcode, opField w = o.bits ∧ w &&& o.format.reserved = 0 ∧ operandsOf o w = .ok i := by
  unfold decode
  cases ho : opcodeOf (opField w) with
  | none =>
    have hno (o : Opcode) : opField w ≠ o.bits := fun h => by rw [h, opcodeOf_bits] at ho; cases ho
    simp [hno]
  | some o =>
    have hop : opField w = o.bits := (opcodeOf_eq_some ho).symm
    simp only [hop, Opcode.bits_inj, exists_eq_left', ne_eq, ite_not]
    by_cases hres : w &&& o.format.reserved = 0
    · rw [if_pos hres, and_iff_right hres]
    · rw [if_neg hres]
      exact ⟨fun h => (nomatch h), fun h => absurd h.1 hres⟩

/-! ### MBLK's kind (R103, R105, R107) -/

theorem kindOfBits_bits {kind : BlockKind} (h : kind.wf = true) : kindOfBits kind.bits kind.kBits = .ok kind := by
  cases kind with
  | zero | ident => rfl
  | shift k =>
    simp only [BlockKind.wf, Bool.and_eq_true, decide_eq_true_eq] at h
    simp [kindOfBits, BlockKind.bits, BlockKind.kBits, toInt_ofInt_8 h.1 h.2]

/-- The cases (c) and (d) of R107. -/
theorem kindOfBits_ok_iff {b : BitVec 2} {k : BitVec 8} :
    (∃ kind, kindOfBits b k = .ok kind) ↔ b ≠ 3 ∧ (b ≠ 2 → k = 0) := by
  unfold kindOfBits
  by_cases h3 : b = 3
  · rw [if_pos h3]
    exact ⟨fun ⟨_, h⟩ => (nomatch h), fun h => absurd h3 h.1⟩
  by_cases h2 : b = 2
  · rw [if_neg h3, if_pos h2]
    exact ⟨fun _ => ⟨h3, fun h => absurd h2 h⟩, fun _ => ⟨_, rfl⟩⟩
  by_cases hk : k = 0
  · rw [if_neg h3, if_neg h2, if_neg (fun h => h hk)]
    refine ⟨fun _ => ⟨h3, fun _ => hk⟩, fun _ => ?_⟩
    by_cases h1 : b = 1
    · exact ⟨.ident, if_pos h1⟩
    · exact ⟨.zero, if_neg h1⟩
  · rw [if_neg h3, if_neg h2, if_pos hk]
    exact ⟨fun ⟨_, h⟩ => (nomatch h), fun h => absurd (h.2 h2) hk⟩

theorem bits_of_kindOfBits {b : BitVec 2} {k : BitVec 8} {kind : BlockKind} (h : kindOfBits b k = .ok kind) :
    kind.bits = b ∧ kind.kBits = k ∧ kind.wf = true := by
  obtain ⟨h3, hk⟩ := kindOfBits_ok_iff.1 ⟨kind, h⟩
  unfold kindOfBits at h
  rw [if_neg h3] at h
  by_cases h2 : b = 2
  · rw [if_pos h2] at h
    cases h
    have hl := BitVec.le_toInt k
    have hu := BitVec.toInt_lt (x := k)
    refine ⟨h2.symm, BitVec.ofInt_toInt, ?_⟩
    simp only [BlockKind.wf, Bool.and_eq_true, decide_eq_true_eq]
    omega
  rw [if_neg h2, if_neg (fun hne => hne (hk h2))] at h
  by_cases h1 : b = 1
  · rw [if_pos h1] at h
    cases h
    exact ⟨h1.symm, (hk h2).symm, rfl⟩
  · rw [if_neg h1] at h
    cases h
    have h0 : ∀ b : BitVec 2, b ≠ 3 → b ≠ 2 → b ≠ 1 → 0 = b := by decide
    exact ⟨h0 b h3 h2 h1, (hk h2).symm, rfl⟩

/-! ### The operands of an encoded command -/

/-- The encoding of every command carries its opcode and has 0 in the reserved bits of its format (R101, R102, R106). -/
theorem encodeShape (i : Instr) : Laws.EncodeShape.Statement i := by
  open Laws.EncodeShape in
  cases i with
  | nop => exact nop
  | stepf => exact stepf
  | stepb => exact stepb
  | stepn => exact stepn
  | mzero rd => exact mzero rd
  | mident rd => exact mident rd
  | mtr rd => exact mtr rd
  | mblk mode rd bi bj kind => exact mblk mode rd bi bj kind
  | mxor rd ra rb => exact mxor rd ra rb
  | mmul rd ra rb => exact mmul rd ra rb
  | mpow rd ra => exact mpow rd ra
  | mtrn rd ra => exact mtrn rd ra
  | meq ra rb => exact meq ra rb
  | mapply ra => exact mapply ra
  | mrows ra => exact mrows ra
  | solve => exact solve

/-- Each field of an encoded command is the operand put into it. -/
theorem operandsOf_encode {i : Instr} (h : i.wf = true) : operandsOf i.opcode (encode i) = .ok i := by
  cases i with
  | mblk mode rd bi bj kind => simp [operandsOf, encode, Instr.opcode, kindOfBits_bits (show kind.wf = true from h)]
  | nop | stepf | stepb | stepn | solve => rfl
  | mzero | mident | mtr | mxor | mmul | mpow | mtrn | meq | mapply | mrows => simp [operandsOf, encode, Instr.opcode]

/-- Settles O2: the encoding carries its opcode, no reserved bit and, field by field, its operands. -/
theorem decodeOfEncode : Obligations.DecodeOfEncode := by
  unfold Obligations.DecodeOfEncode
  intro i hwf
  obtain ⟨hop, hres⟩ := encodeShape i
  exact decode_eq_ok_iff.2 ⟨i.opcode, hop, hres, operandsOf_encode hwf⟩

/-! ### A word is its fields; its reserved fields are 0 (R101–R103) -/

theorem pack_fields (w : Word) : pack (opField w) (rdField w) (raField w) (rbField w) (w.extractLsb' 0 12) = w := by
  show (w.extractLsb' 24 8 ++ w.extractLsb' 20 4 ++ w.extractLsb' 16 4 ++ w.extractLsb' 12 4 ++ w.extractLsb' 0 12 :
    BitVec (8 + 4 + 4 + 4 + 12)) = w
  simp only [BitVec.extractLsb'_append_extractLsb'_eq_extractLsb', BitVec.extractLsb'_eq_self]

theorem and_not_of_and_eq_zero {w m : Word} (h : w &&& m = 0) : w &&& ~~~m = w := by
  calc
    w &&& ~~~m = (w &&& m) ||| (w &&& ~~~m) := by rw [h]; simp
    _ = w := by rw [← BitVec.and_or_distrib_left, BitVec.or_not_self, BitVec.and_allOnes]

/-- A mask of ones keeps a register field, with the mask as simp writes it. -/
theorem and_ones (b : BitVec 4) : b &&& 0xF#4 = b := BitVec.and_allOnes

/-- A word with 0 in every reserved bit is the packing of its fields under the mask of the bits that are not reserved. -/
theorem pack_of_reserved {w : Word} {f : Format} (rd ra rb : BitVec 4) (imm : BitVec 12)
    (hf : ~~~f.reserved = pack (BitVec.allOnes _) rd ra rb imm) (h : w &&& f.reserved = 0) :
    pack (opField w) (rdField w &&& rd) (raField w &&& ra) (rbField w &&& rb) (w.extractLsb' 0 12 &&& imm) = w := by
  calc
    _ = pack (opField w) (rdField w) (raField w) (rbField w) (w.extractLsb' 0 12) &&&
        pack (BitVec.allOnes _) rd ra rb imm := by
      rw [pack_and, BitVec.and_allOnes]
    _ = w := by rw [pack_fields, ← hf, and_not_of_and_eq_zero h]

theorem packBlk_of_reserved {w : Word} (h : w &&& Format.reserved .fblk = 0) :
    packBlk (opField w) (rdField w) (biField w) (bjField w) (kindField w) (xField w) (kField w) = w := by
  have hres : w.extractLsb' 8 5 = 0#5 := by
    calc
      w.extractLsb' 8 5 = (w &&& Format.reserved .fblk).extractLsb' 8 5 := by
        rw [BitVec.extractLsb'_and, show (Format.reserved .fblk).extractLsb' 8 5 = BitVec.allOnes 5 from by decide,
          BitVec.and_allOnes]
      _ = 0#5 := by rw [h]; rfl
  show (w.extractLsb' 24 8 ++ w.extractLsb' 20 4 ++ w.extractLsb' 18 2 ++ w.extractLsb' 16 2 ++ w.extractLsb' 14 2 ++
    w.extractLsb' 13 1 ++ 0#5 ++ w.extractLsb' 0 8 : BitVec (8 + 4 + 2 + 2 + 2 + 1 + 5 + 8)) = w
  rw [← hres]
  simp only [BitVec.extractLsb'_append_extractLsb'_eq_extractLsb', BitVec.extractLsb'_eq_self]

/-- The command read from a word with no reserved bit encodes back to the word. -/
theorem encode_of_operandsOf {o : Opcode} {w : Word} {i : Instr} (hop : opField w = o.bits)
    (hres : w &&& o.format.reserved = 0) (h : operandsOf o w = .ok i) : encode i = w ∧ i.wf = true := by
  cases o with
  | nop | stepf | stepb | stepn | solve =>
    cases h; simpa [encode, Instr.wf, hop] using pack_of_reserved 0 0 0 0 (by decide) hres
  | mzero | mident | mtr =>
    cases h; simpa [encode, Instr.wf, hop, and_ones] using pack_of_reserved 0xF 0 0 0 (by decide) hres
  | mxor | mmul =>
    cases h; simpa [encode, Instr.wf, hop, and_ones] using pack_of_reserved 0xF 0xF 0xF 0 (by decide) hres
  | mpow | mtrn =>
    cases h; simpa [encode, Instr.wf, hop, and_ones] using pack_of_reserved 0xF 0xF 0 0 (by decide) hres
  | meq =>
    cases h; simpa [encode, Instr.wf, hop, and_ones] using pack_of_reserved 0 0xF 0xF 0 (by decide) hres
  | mapply | mrows =>
    cases h; simpa [encode, Instr.wf, hop, and_ones] using pack_of_reserved 0 0xF 0 0 (by decide) hres
  | mblk =>
    cases hk : kindOfBits (kindField w) (kField w) with
    | error e => simp [operandsOf, hk] at h
    | ok kind =>
      simp only [operandsOf, hk, Except.ok.injEq] at h
      obtain ⟨hkind, hkBits, hwf⟩ := bits_of_kindOfBits hk
      subst h
      exact ⟨by simpa [encode, hkind, hkBits, bits_modeOfBits, hop] using packBlk_of_reserved hres, hwf⟩

/-- Settles O3: a legal word's reserved bits are 0 and its other bits are the fields of the command it decodes to. -/
theorem encodeOfDecode : Obligations.EncodeOfDecode := by
  unfold Obligations.EncodeOfDecode
  intro w i h
  obtain ⟨o, hop, hres, hi⟩ := decode_eq_ok_iff.1 h
  exact encode_of_operandsOf hop hres hi

/-! ### The rows of the opcode table (R102, R106) -/

/-- The bits an opcode's row of the table asks for. -/
def Opcode.tableMatch (o : Opcode) : Word := (o.bits ++ 0#24 : BitVec (8 + 24))

/-- The bits an opcode's row of the table looks at: OP and the reserved bits of its format. -/
def Opcode.tableMask (o : Opcode) : Word := (BitVec.allOnes 8 ++ o.format.reserved.extractLsb' 0 24 : BitVec (8 + 24))

theorem word_eq_iff {v w : Word} : v = w ↔ opField v = opField w ∧ v.extractLsb' 0 24 = w.extractLsb' 0 24 := by
  have hsplit (u : Word) : (opField u ++ u.extractLsb' 0 24 : BitVec (8 + 24)) = u := by
    simp only [opField, BitVec.extractLsb'_append_extractLsb'_eq_extractLsb', BitVec.extractLsb'_eq_self]
  refine ⟨fun h => h ▸ ⟨rfl, rfl⟩, fun ⟨hop, hlow⟩ => ?_⟩
  rw [← hsplit v, ← hsplit w, hop, hlow]

theorem opField_and (v w : Word) : opField (v &&& w) = opField v &&& opField w := BitVec.extractLsb'_and

theorem Format.opField_reserved (f : Format) : opField f.reserved = 0#8 := by cases f <;> rfl

/-- A word matches an opcode's row when it carries the opcode and has 0 in the reserved bits of its format. -/
theorem and_tableMask_eq_iff {w : Word} {o : Opcode} :
    w &&& o.tableMask = o.tableMatch ↔ opField w = o.bits ∧ w &&& o.format.reserved = 0 := by
  have hmaskOp : opField o.tableMask = BitVec.allOnes 8 := BitVec.extractLsb'_append_eq_left
  have hmaskLow : o.tableMask.extractLsb' 0 24 = o.format.reserved.extractLsb' 0 24 := BitVec.extractLsb'_append_eq_right
  have hmatchOp : opField o.tableMatch = o.bits := BitVec.extractLsb'_append_eq_left
  have hmatchLow : o.tableMatch.extractLsb' 0 24 = 0#24 := BitVec.extractLsb'_append_eq_right
  have hres : w &&& o.format.reserved = 0 ↔ w.extractLsb' 0 24 &&& o.format.reserved.extractLsb' 0 24 = 0#24 := by
    rw [word_eq_iff, opField_and, Format.opField_reserved, BitVec.and_zero, BitVec.extractLsb'_and]
    exact and_iff_right rfl
  rw [word_eq_iff, opField_and, BitVec.extractLsb'_and, hmaskOp, hmaskLow, hmatchOp, hmatchLow, BitVec.and_allOnes, hres]

/-- Only MBLK has operands that can be illegal (R107). -/
theorem operandsOf_ok_iff {o : Opcode} {w : Word} :
    (∃ i, operandsOf o w = .ok i) ↔ (o = .mblk → kindField w ≠ 3 ∧ (kindField w ≠ 2 → kField w = 0)) := by
  cases o with
  | mblk =>
    rw [← kindOfBits_ok_iff]
    cases hk : kindOfBits (kindField w) (kField w) <;> simp [operandsOf, hk]
  | _ => simp [operandsOf]

/-- Settles O4: the table has one row per opcode, and a word matches it when it carries the opcode and no reserved bit. -/
theorem legalWordsAreTheTableRows : Obligations.LegalWordsAreTheTableRows := by
  unfold Obligations.LegalWordsAreTheTableRows
  intro w
  change _ ↔ (∃ row ∈ Opcode.all.map fun o => (o.tableMatch, o.tableMask), w &&& row.2 = row.1) ∧
    (opField w = Opcode.mblk.bits → kindField w ≠ 3 ∧ (kindField w ≠ 2 → kField w = 0))
  have hall (o : Opcode) : o ∈ Opcode.all := by cases o <;> decide
  constructor
  · rintro ⟨i, h⟩
    obtain ⟨o, hop, hres, hi⟩ := decode_eq_ok_iff.1 h
    refine ⟨⟨_, List.mem_map_of_mem (hall o), and_tableMask_eq_iff.2 ⟨hop, hres⟩⟩, fun hm => ?_⟩
    exact operandsOf_ok_iff.1 ⟨i, hi⟩ (Opcode.bits_inj.1 (hop.symm.trans hm))
  · rintro ⟨⟨row, hrow, hw⟩, hm⟩
    obtain ⟨o, -, rfl⟩ := List.mem_map.1 hrow
    obtain ⟨hop, hres⟩ := and_tableMask_eq_iff.1 hw
    obtain ⟨i, hi⟩ := operandsOf_ok_iff.2 fun ho => hm (ho ▸ hop)
    exact ⟨i, decode_eq_ok_iff.2 ⟨o, hop, hres, hi⟩⟩

/-- Settles O1: each of R111's words, evaluated. -/
theorem commandWordExamplesDecode : Obligations.CommandWordExamplesDecode := by
  unfold Obligations.CommandWordExamplesDecode
  exact ⟨rfl, rfl, rfl, rfl, rfl, rfl, rfl, rfl, rfl, rfl, rfl, rfl, rfl, rfl, rfl, rfl, rfl, rfl, rfl, rfl⟩

/-! ### The matrices of MCOPY and MIXS (R112) -/

theorem BitMat.transpose_transpose {n : Nat} (A : BitMat n) : A.transpose.transpose = A :=
  BitMat.ext_bits fun _ hr _ hc => (BitMat.bit_transpose _ hr hc).trans (BitMat.bit_transpose _ hc hr)

/-- A block set and then one added into it is their sum set (R168). -/
theorem placeBlock_xor_placeBlock_set {bi bj : Nat} (hbj : bj < 4) (P Q : Block) (A : Matrix) :
    placeBlock .xor bi bj Q (placeBlock .set bi bj P A) = placeBlock .set bi bj (P.add Q) A := by
  apply BitMat.ext_bits
  intro r hr c hc
  simp only [bit_placeBlock _ _ _ hr hc hbj, BitMat.bit_add]
  split <;> rfl

namespace Machine

/-- Settles O5: at the engine's turn an illegal word completes with BADCMD. -/
theorem illegalWordRaisesBadCmd : Obligations.IllegalWordRaisesBadCmd := by
  unfold Obligations.IllegalWordRaisesBadCmd
  intro s p hp ht hill
  rw [step_of_engine_turn hp ht]
  rcases engineStep_cases p.word s with ⟨i, hi, -⟩ | ⟨-, -, h⟩
  · exact absurd hi (hill i)
  · exact h

theorem execAll_singleton (i : Instr) (s : State) : execAll [i] s = exec i s := by
  unfold execAll
  cases exec i s <;> rfl

/-- Two commands of which the second writes, with ERR = OK, the matrix register the first wrote. -/
theorem execAll_pair_setMat {i j : Instr} {rd : MatReg} {A B : Matrix} {s : State}
    (hi : exec i s = .next ((s.setMat rd A).complete .ok))
    (hj : exec j ((s.setMat rd A).complete .ok) = .next ((((s.setMat rd A).complete .ok).setMat rd B).complete .ok)) :
    execAll [i, j] s = .next ((s.setMat rd B).complete .ok) := by
  rw [execAll_cons_of_next hi, execAll_singleton, hj, State.setMat_complete_setMat_complete]

/-- Settles O31: a transpose twice is the matrix itself, and a block added into the block I is the sum. -/
theorem pseudoInstructionsMean : Obligations.PseudoInstructionsMean := by
  unfold Obligations.PseudoInstructionsMean
  intro md ma bi bj k s
  refine ⟨?mcopy, ?msqr, ?mclr, ?clrerr, ?mshift, ?mixs⟩
  case mcopy =>
    refine execAll_pair_setMat (exec_mtrn s md ma) ?_
    rw [exec_mtrn, State.mat_complete, State.mat_setMat_self, BitMat.transpose_transpose]
  case msqr => exact (execAll_singleton _ s).trans (exec_mmul s md ma ma)
  case mclr => exact execAll_singleton _ s
  case clrerr => exact execAll_singleton _ s
  case mshift => exact (execAll_singleton _ s).trans (exec_mblk s .set md bi bj (.shift k))
  case mixs =>
    refine execAll_pair_setMat (exec_mblk s .set md bi bj .ident) ?_
    rw [exec_mblk, State.mat_complete, State.mat_setMat_self, placeBlock_xor_placeBlock_set bj.isLt]
    rfl

end Machine

end Sys2Proof
end

section
/-! SUPPORT. The forward and the backward step in terms of their shift sums, the one-step matrix applied word by word, and STEPN as
its loop: the statements of the family `40_transition.md`. -/

namespace Sys2Proof

/-! ### The shift sums of the two steps (R131, R133) -/

/-- The forward step's x XOR (x << 11), its temp (R131). -/
def shlMix (x : Word) : Word := x ^^^ (x <<< 11)

/-- The forward step's x XOR (x >> 8) (R131). -/
def shrMix (x : Word) : Word := x ^^^ (x >>> 8)

/-- The backward step's sum over the left shifts (R133). -/
def shlUnmix (x : Word) : Word := x ^^^ (x <<< 11) ^^^ (x <<< 22)

/-- The backward step's sum over the right shifts (R133). -/
def shrUnmix (x : Word) : Word := x ^^^ (x >>> 8) ^^^ (x >>> 16) ^^^ (x >>> 24)

theorem fwd_state (g : GenState) :
    (fwd g).1 = ⟨g.s1, g.s2, g.s3, shrMix (shlMix g.s0) ^^^ g.s3 ^^^ (g.s3 >>> 19)⟩ := rfl

theorem bwd_state (g : GenState) :
    bwd g = ⟨shlUnmix (shrUnmix (g.s3 ^^^ g.s2 ^^^ (g.s2 >>> 19))), g.s0, g.s1, g.s2⟩ := rfl

/-- Each shift of the sum but x itself stands in it twice, and x << 33 is 0. -/
theorem shlUnmix_shlMix (x : Word) : shlUnmix (shlMix x) = x := by
  have h33 : x <<< 33 = 0#32 := BitVec.shiftLeft_eq_zero (by decide)
  simp only [shlUnmix, shlMix, BitVec.shiftLeft_xor_distrib, ← BitVec.shiftLeft_add, Nat.reduceAdd, h33]
  grind

theorem shlMix_shlUnmix (x : Word) : shlMix (shlUnmix x) = x := by
  have h33 : x <<< 33 = 0#32 := BitVec.shiftLeft_eq_zero (by decide)
  simp only [shlUnmix, shlMix, BitVec.shiftLeft_xor_distrib, ← BitVec.shiftLeft_add, Nat.reduceAdd, h33]
  grind

/-- Each shift of the sum but x itself stands in it twice, and x >> 32 is 0. -/
theorem shrUnmix_shrMix (x : Word) : shrUnmix (shrMix x) = x := by
  have h32 : x >>> 32 = 0#32 := BitVec.ushiftRight_eq_zero (Nat.le_refl 32)
  simp only [shrUnmix, shrMix, BitVec.ushiftRight_xor_distrib, ← BitVec.shiftRight_add, Nat.reduceAdd, h32]
  grind

theorem shrMix_shrUnmix (x : Word) : shrMix (shrUnmix x) = x := by
  have h32 : x >>> 32 = 0#32 := BitVec.ushiftRight_eq_zero (Nat.le_refl 32)
  simp only [shrUnmix, shrMix, BitVec.ushiftRight_xor_distrib, ← BitVec.shiftRight_add, Nat.reduceAdd, h32]
  grind

theorem shlMix_xor (x y : Word) : shlMix (x ^^^ y) = shlMix x ^^^ shlMix y := by
  simp only [shlMix, BitVec.shiftLeft_xor_distrib]
  grind

theorem shrMix_xor (x y : Word) : shrMix (x ^^^ y) = shrMix x ^^^ shrMix y := by
  simp only [shrMix, BitVec.ushiftRight_xor_distrib]
  grind

theorem shlUnmix_xor (x y : Word) : shlUnmix (x ^^^ y) = shlUnmix x ^^^ shlUnmix y := by
  simp only [shlUnmix, BitVec.shiftLeft_xor_distrib]
  grind

theorem shrUnmix_xor (x y : Word) : shrUnmix (x ^^^ y) = shrUnmix x ^^^ shrUnmix y := by
  simp only [shrUnmix, BitVec.ushiftRight_xor_distrib]
  ac_rfl

theorem xor_pair_cancel (x a b : Word) : x ^^^ a ^^^ b ^^^ a ^^^ b = x := by grind

/-! ### The steps undo each other and are linear (R135, R139) -/

theorem bwd_fwd (g : GenState) : bwd (fwd g).1 = g := by
  rw [fwd_state, bwd_state, xor_pair_cancel, shrUnmix_shrMix, shlUnmix_shlMix]

theorem fwd_bwd (g : GenState) : (fwd (bwd g)).1 = g := by
  rw [bwd_state, fwd_state, shlMix_shlUnmix, shrMix_shrUnmix, xor_pair_cancel]

theorem fwd_add (a b : GenState) : (fwd (a.add b)).1 = (fwd a).1.add (fwd b).1 := by
  simp only [fwd_state, GenState.add, shlMix_xor, shrMix_xor, BitVec.ushiftRight_xor_distrib, GenState.mk.injEq, true_and]
  grind

theorem bwd_add (a b : GenState) : bwd (a.add b) = (bwd a).add (bwd b) := by
  simp only [bwd_state, GenState.add, ← shlUnmix_xor, ← shrUnmix_xor, BitVec.ushiftRight_xor_distrib]
  congr 3
  grind

/-! ### A matrix made of blocks, applied word by word (R13, R160, R163) -/

section blocks

variable {n : Nat}

theorem xorBits_add (m n : Nat) (f : Nat → Bool) :
    xorBits (m + n) f = (xorBits m f ^^ xorBits n fun j => f (m + j)) := by
  induction n with
  | zero => simp [xorBits]
  | succ n ih => rw [← Nat.add_assoc, xorBits, ih, xorBits, Bool.xor_assoc]

/-- A sum over m runs of n terms is the sum of the runs' sums. -/
theorem xorBits_mul (n m : Nat) (f : Nat → Bool) :
    xorBits (n * m) f = xorBits m fun k => xorBits n fun j => f (n * k + j) := by
  induction m with
  | zero => rfl
  | succ m ih => rw [Nat.mul_succ, xorBits_add, ih, xorBits]

theorem BitMat.add_mulVec (A B : BitMat n) (v : BitVec n) : (A.add B).mulVec v = A.mulVec v ^^^ B.mulVec v := by
  apply BitVec.eq_of_getMsbD_eq
  intro r hr
  rw [BitVec.getMsbD_xor, BitMat.getMsbD_mulVec _ _ hr, BitMat.getMsbD_mulVec _ _ hr, BitMat.getMsbD_mulVec _ _ hr,
    ← xorBits_xor]
  apply xorBits_congr
  intro c _
  rw [BitMat.bit_add, Bool.and_xor_distrib_right]

theorem BitMat.zero_mulVec (v : BitVec n) : (BitMat.zero : BitMat n).mulVec v = 0 := by
  apply BitVec.eq_of_getMsbD_eq
  intro r hr
  simp [BitMat.getMsbD_mulVec _ _ hr, BitMat.bit_zero]

/-- Row i of the block has its one at column i + k, if there is such a column (R163). -/
theorem shiftBlock_mulVec_left (k : Nat) (w : Word) : (shiftBlock k).mulVec w = w <<< k := by
  apply BitVec.eq_of_getMsbD_eq
  intro i hi
  have hbit (c : Nat) (hc : c < 32) : (shiftBlock k).bit i c = decide (c = i + k) := by
    rw [shiftBlock_bit k hi hc, decide_eq_decide]
    omega
  rw [BitMat.getMsbD_mulVec _ _ hi, BitVec.getMsbD_shiftLeft, xorBits_congr fun c hc => by rw [hbit c hc], xorBits_single]
  by_cases h : i + k < 32
  · simp [h]
  · rw [BitVec.getMsbD_of_ge _ _ (Nat.le_of_not_lt h), Bool.and_false]

/-- Row i of the block has its one at column i - k, if there is such a column (R163). -/
theorem shiftBlock_mulVec_right (k : Nat) (w : Word) : (shiftBlock (-k)).mulVec w = w >>> k := by
  apply BitVec.eq_of_getMsbD_eq
  intro i hi
  have hbit (c : Nat) (hc : c < 32) : (shiftBlock (-k)).bit i c = (decide (c = i - k) && !decide (i < k)) := by
    rw [shiftBlock_bit _ hi hc, ← decide_not, ← Bool.decide_and, decide_eq_decide]
    omega
  rw [BitMat.getMsbD_mulVec _ _ hi, BitVec.getMsbD_ushiftRight,
    xorBits_congr fun c hc => by rw [hbit c hc, Bool.and_assoc], xorBits_single]
  have h : i - k < 32 := by omega
  simp [hi, h]

/-- A matrix given by its blocks, applied to a vector given by its words: word i of the result is the sum of the blocks of
block row i, each applied to its word. -/
theorem mulVec_of_blocks (B : Nat → Nat → Block) (f : Nat → Word) :
    (BitMat.ofRows fun r => rowOfWords fun k => (B (r / 32) k).row (r % 32) : Matrix).mulVec (rowOfWords f) =
      rowOfWords fun i => xorVecs 4 fun k => (B i k).mulVec (f k) := by
  apply BitVec.eq_of_getMsbD_eq
  intro r hr
  rw [BitMat.getMsbD_mulVec _ _ hr, getMsbD_rowOfWords _ hr, getMsbD_xorVecs]
  refine (xorBits_mul 32 4 _).trans (xorBits_congr fun k hk => ?_)
  rw [BitMat.getMsbD_mulVec _ _ (Nat.mod_lt r (by decide))]
  apply xorBits_congr
  intro j hj
  have hq : (32 * k + j) / 32 = k := by omega
  have hm : (32 * k + j) % 32 = j := by omega
  rw [BitMat.bit_ofRows _ hr, getMsbD_rowOfWords _ (by omega), getMsbD_rowOfWords _ (by omega), hq, hm]
  rfl

end blocks

theorem trBlock_new_s0_mulVec (w : Word) : (trBlock 3 0).mulVec w = shrMix (shlMix w) := by
  have hl : (shiftBlock 11).mulVec w = w <<< 11 := shiftBlock_mulVec_left 11 w
  have hr (v : Word) : (shiftBlock (-8)).mulVec v = v >>> 8 := shiftBlock_mulVec_right 8 v
  rw [trBlock, BitMat.mulVec_mul, BitMat.add_mulVec, BitMat.add_mulVec, BitMat.ident_mulVec, BitMat.ident_mulVec, hl, hr]
  rfl

theorem trBlock_new_s3_mulVec (w : Word) : (trBlock 3 3).mulVec w = w ^^^ w >>> 19 := by
  have hr : (shiftBlock (-19)).mulVec w = w >>> 19 := shiftBlock_mulVec_right 19 w
  rw [trBlock, BitMat.add_mulVec, BitMat.ident_mulVec, hr]

/-- Block row i of Tr on the words of g gives word i of the state one forward step later (R131, R160). -/
theorem trBlock_mulVec_word (g : GenState) {i : Nat} (hi : i < 4) :
    (xorVecs 4 fun k => (trBlock i k).mulVec (g.word k)) = (fwd g).1.word i := by
  simp only [xorVecs]
  match i, hi with
  | 0, _ | 1, _ | 2, _ => simp [trBlock, BitMat.ident_mulVec, BitMat.zero_mulVec, GenState.word, fwd_state]
  | 3, _ =>
    rw [trBlock_new_s0_mulVec, trBlock_new_s3_mulVec]
    simp [trBlock, BitMat.zero_mulVec, GenState.word, fwd_state, BitVec.xor_assoc]

theorem vec_fwd (g : GenState) : (fwd g).1.vec = trMatrix.mulVec g.vec := by
  calc
    (fwd g).1.vec = rowOfWords fun i => xorVecs 4 fun k => (trBlock i k).mulVec (g.word k) :=
      rowOfWords_congr fun _ hi => (trBlock_mulVec_word g hi).symm
    _ = trMatrix.mulVec g.vec := (mulVec_of_blocks trBlock g.word).symm

namespace Machine

/-! ### STEPN as its loop (R137) -/

/-- n STEPFs leave what n forward steps and one completion leave, but for the completion when n = 0. -/
theorem execAll_replicate_stepf (n : Nat) (s : State) :
    ∃ t, execAll (List.replicate n .stepf) s = .next t ∧
      t.complete .ok = ((s.setGen (fwdN n (s.gen, s.out)).1).setOut (fwdN n (s.gen, s.out)).2).complete .ok := by
  induction n generalizing s with
  | zero => exact ⟨s, rfl, rfl⟩
  | succ n ih =>
    rw [List.replicate_succ, execAll_cons_of_next (exec_stepf s)]
    exact ih _

/-- Settles O13, by induction on the number of STEPFs. -/
theorem stepnIsRepeatedStepf : Obligations.StepnIsRepeatedStepf := by
  unfold Obligations.StepnIsRepeatedStepf
  intro s
  obtain ⟨t, ht, hc⟩ := execAll_replicate_stepf s.arg.toNat s
  exact ⟨t, ht, (exec_stepn s).trans (congrArg _ hc.symm)⟩

/-- Settles O14: bwd and fwd's state part undo each other. -/
theorem stepsAreInverse : Obligations.StepsAreInverse := by
  unfold Obligations.StepsAreInverse
  exact fun s => ⟨⟨_, execAll_cons_of_next (exec_stepf s) _, bwd_fwd s.gen⟩,
    ⟨_, execAll_cons_of_next (exec_stepb s) _, fwd_bwd s.gen⟩⟩

/-- Settles O15: each step is made of shifts and sums of words, and each word of the forward one is a block row of Tr. -/
theorem stepsAreLinear : Obligations.StepsAreLinear := by
  unfold Obligations.StepsAreLinear
  exact ⟨fwd_add, bwd_add, vec_fwd⟩

/-! ### NOP, STEPF and STEPB, each by its equation (R130, R131, R133) -/

theorem raisesBadCmd_of_illegal {w : Word} (h : ∀ i, decode w ≠ .ok i) : RaisesBadCmd w := by
  intro s
  rcases engineStep_cases w s with ⟨i, hi, -⟩ | ⟨-, -, e⟩
  · exact absurd hi (h i)
  · exact e

/-- Settles O10: a word with NOP's opcode and a reserved bit decodes to no command. -/
theorem nopClearsErrOnly : Obligations.NopClearsErrOnly := by
  unfold Obligations.NopClearsErrOnly
  refine ⟨rfl, exec_nop, fun w hop hlow => raisesBadCmd_of_illegal fun i h => ?_⟩
  obtain ⟨o, ho, hres, -⟩ := decode_eq_ok_iff.1 h
  obtain rfl : o = .nop := Opcode.bits_inj.1 (ho.symm.trans hop)
  apply hlow
  calc
    w.extractLsb' 0 24 = (w &&& Format.reserved .f0).extractLsb' 0 24 := by
      rw [BitVec.extractLsb'_and, show (Format.reserved .f0).extractLsb' 0 24 = BitVec.allOnes 24 from by decide,
        BitVec.and_allOnes]
    _ = 0 := congrArg _ hres

/-- Settles O11: STEPF's update of the state, with fwd's formula. -/
theorem stepfForwardFormula : Obligations.StepfForwardFormula := by
  unfold Obligations.StepfForwardFormula
  exact exec_stepf

/-- Settles O12: STEPB's update of the state, with bwd's formula. -/
theorem stepbBackwardFormula : Obligations.StepbBackwardFormula := by
  unfold Obligations.StepbBackwardFormula
  exact exec_stepb

end Machine

end Sys2Proof
end

section
/-! SUPPORT. Powers, transposes and blocks of GF(2) matrices, the entries of Tr, and the records of MROWS: the statements of the
family `41_matrix.md`. -/

namespace Sys2Proof

section algebra

variable {n : Nat}

/-! ### Powers (R173) -/

theorem BitMat.pow_succ (A : BitMat n) (k : Nat) : A.pow (k + 1) = (A.pow k).mul A := rfl

theorem BitMat.pow_one (A : BitMat n) : A.pow 1 = A := BitMat.ident_mul A

theorem BitMat.pow_mul_pow (A : BitMat n) (a b : Nat) : (A.pow a).mul (A.pow b) = A.pow (a + b) := by
  induction b with
  | zero => exact BitMat.mul_ident _
  | succ b ih => rw [BitMat.pow_succ, ← BitMat.mul_assoc, ih, ← Nat.add_assoc, BitMat.pow_succ]

/-- A power, peeled at the other end of its loop. -/
theorem BitMat.pow_succ_left (A : BitMat n) (k : Nat) : A.pow (k + 1) = A.mul (A.pow k) := by
  rw [Nat.add_comm, ← BitMat.pow_mul_pow, BitMat.pow_one]

theorem BitMat.pow_mulVec (A : BitMat n) (k : Nat) (v : BitVec n) : (A.pow k).mulVec v = Nat.repeat A.mulVec k v := by
  induction k with
  | zero => exact BitMat.ident_mulVec v
  | succ k ih => rw [BitMat.pow_succ_left, BitMat.mulVec_mul, ih, Nat.repeat]

/-! ### Transposes (R177) -/

theorem BitMat.transpose_ident : (BitMat.ident : BitMat n).transpose = BitMat.ident := by
  apply BitMat.ext_bits
  intro r hr c hc
  rw [BitMat.bit_transpose _ hr hc, BitMat.bit_ident hc hr, BitMat.bit_ident hr hc, decide_eq_decide]
  exact eq_comm

theorem BitMat.transpose_mul (A B : BitMat n) : (A.mul B).transpose = B.transpose.mul A.transpose := by
  apply BitMat.ext_bits
  intro r hr c hc
  rw [BitMat.bit_transpose _ hr hc, BitMat.bit_mul _ _ hc, BitMat.bit_mul _ _ hr]
  apply xorBits_congr
  intro k hk
  rw [BitMat.bit_transpose _ hr hk, BitMat.bit_transpose _ hk hc, Bool.and_comm]

theorem BitMat.transpose_add (A B : BitMat n) : (A.add B).transpose = A.transpose.add B.transpose := by
  apply BitMat.ext_bits
  intro r hr c hc
  rw [BitMat.bit_transpose _ hr hc, BitMat.bit_add, BitMat.bit_add, BitMat.bit_transpose _ hr hc, BitMat.bit_transpose _ hr hc]

theorem BitMat.transpose_pow (A : BitMat n) (k : Nat) : (A.pow k).transpose = A.transpose.pow k := by
  induction k with
  | zero => exact BitMat.transpose_ident
  | succ k ih => rw [BitMat.pow_succ, BitMat.transpose_mul, ih, BitMat.pow_succ_left]

theorem BitMat.add_mul (A B C : BitMat n) : (A.add B).mul C = (A.mul C).add (B.mul C) := by
  apply BitMat.ext_bits
  intro r hr c _
  rw [BitMat.bit_add, BitMat.bit_mul _ _ hr, BitMat.bit_mul _ _ hr, BitMat.bit_mul _ _ hr, ← xorBits_xor]
  apply xorBits_congr
  intro k _
  rw [BitMat.bit_add, Bool.and_xor_distrib_right]

end algebra

/-! ### Shifted identities and one-block matrices (R163, R168, R169) -/

theorem shiftBlock_zero : shiftBlock 0 = BitMat.ident := by
  apply BitMat.ext_bits
  intro i hi j hj
  rw [shiftBlock_bit 0 hi hj, BitMat.bit_ident hi hj, decide_eq_decide]
  omega

theorem shiftBlock_of_far {k : Int} (h : 32 ≤ k ∨ k ≤ -32) : shiftBlock k = BitMat.zero := by
  apply BitMat.ext_bits
  intro i hi j hj
  rw [shiftBlock_bit k hi hj, BitMat.bit_zero, decide_eq_false_iff_not]
  omega

/-- The product with shift(-k) on the left moves the rows down by k. -/
theorem bit_shiftBlock_neg_mul (k : Nat) (B : Block) {i : Nat} (hi : i < 32) (j : Nat) :
    ((shiftBlock (-k)).mul B).bit i j = (decide (k ≤ i) && B.bit (i - k) j) := by
  have hbit (m : Nat) (hm : m < 32) : (shiftBlock (-k)).bit i m = (decide (m = i - k) && decide (k ≤ i)) := by
    rw [shiftBlock_bit _ hi hm, ← Bool.decide_and, decide_eq_decide]
    omega
  rw [BitMat.bit_mul _ _ hi, xorBits_congr fun m hm => by rw [hbit m hm, Bool.and_assoc], xorBits_single,
    decide_eq_true (show i - k < 32 by omega), Bool.true_and]

/-- The entries of the block of each KIND. -/
theorem BlockKind.bit_block (kind : BlockKind) {i j : Nat} (hi : i < 32) (hj : j < 32) :
    kind.block.bit i j =
      match kind with
      | .zero => false
      | .ident => decide (i = j)
      | .shift k => decide ((j : Int) = (i : Int) + k) := by
  cases kind with
  | zero => exact BitMat.bit_zero i j
  | ident => exact BitMat.bit_ident hi hj
  | shift k => exact shiftBlock_bit k hi hj

/-- The entries of the matrix that is zero but for one block. -/
theorem bit_placeBlock_set_zero {bi bj : Nat} (P : Block) {r c : Nat} (hr : r < 128) (hc : c < 128) (hbj : bj < 4) :
    (placeBlock .set bi bj P BitMat.zero).bit r c =
      (decide (r / 32 = bi) && decide (c / 32 = bj) && P.bit (r % 32) (c % 32)) := by
  rw [bit_placeBlock _ _ _ hr hc hbj, BitMat.bit_zero]
  by_cases h : r / 32 = bi ∧ c / 32 = bj
  · rw [if_pos h, decide_eq_true h.1, decide_eq_true h.2, Bool.true_and, Bool.true_and]
  · rw [if_neg h, ← Bool.decide_and, decide_eq_false h, Bool.false_and]

/-- Of the four runs of 32 terms in an entry of the product, only the run of the common block index q is not zero. -/
theorem placeBlock_mul_placeBlock {p q t : Nat} (hq : q < 4) (ht : t < 4) (X Y : Block) :
    (placeBlock .set p q X BitMat.zero).mul (placeBlock .set q t Y BitMat.zero) =
      placeBlock .set p t (X.mul Y) BitMat.zero := by
  apply BitMat.ext_bits
  intro r hr c hc
  have hterm (k j : Nat) (hk : k < 4) (hj : j < 32) :
      ((placeBlock .set p q X BitMat.zero).bit r (32 * k + j) && (placeBlock .set q t Y BitMat.zero).bit (32 * k + j) c) =
        (decide (k = q) && (decide (r / 32 = p) && decide (c / 32 = t)) && (X.bit (r % 32) j && Y.bit j (c % 32))) := by
    rw [bit_placeBlock_set_zero _ hr (by omega) hq, bit_placeBlock_set_zero _ (by omega) hc ht,
      show (32 * k + j) / 32 = k by omega, show (32 * k + j) % 32 = j by omega]
    cases decide (k = q) with
    | false => simp only [Bool.false_and, Bool.and_false]
    | true => simp only [Bool.and_true, Bool.true_and]; ac_rfl
  calc
    ((placeBlock .set p q X BitMat.zero).mul (placeBlock .set q t Y BitMat.zero)).bit r c
        = xorBits 4 (fun k => xorBits 32 fun j =>
            decide (k = q) && (decide (r / 32 = p) && decide (c / 32 = t)) && (X.bit (r % 32) j && Y.bit j (c % 32))) := by
          rw [BitMat.bit_mul _ _ hr]
          exact (xorBits_mul 32 4 _).trans (xorBits_congr fun k hk => xorBits_congr fun j hj => hterm k j hk hj)
    _ = xorBits 4 (fun k => decide (k = q) &&
            (decide (r / 32 = p) && decide (c / 32 = t) && (X.mul Y).bit (r % 32) (c % 32))) := by
          apply xorBits_congr
          intro k _
          rw [xorBits_and_left, ← BitMat.bit_mul _ _ (Nat.mod_lt r (by decide)), Bool.and_assoc]
    _ = (placeBlock .set p t (X.mul Y) BitMat.zero).bit r c := by
          rw [xorBits_single, decide_eq_true hq, Bool.true_and, bit_placeBlock_set_zero _ hr hc ht]

/-! ### The entries of Tr (R160, R161) -/

theorem bit_trMatrix {r c : Nat} (hr : r < 128) (hc : c < 128) :
    trMatrix.bit r c = (trBlock (r / 32) (c / 32)).bit (r % 32) (c % 32) := by
  rw [trMatrix, BitMat.bit_ofRows _ hr, getMsbD_rowOfWords _ hc, BitMat.bit]

/-- The first three block rows move the words s1, s2 and s3 one place down. -/
theorem trBlock_of_lt {b k : Nat} (hb : b < 3) (hk : k < 4) : trBlock b k = if k = b + 1 then BitMat.ident else BitMat.zero := by
  match b, hb, k, hk with
  | 0, _, 0, _ | 0, _, 1, _ | 0, _, 2, _ | 0, _, 3, _ => rfl
  | 1, _, 0, _ | 1, _, 1, _ | 1, _, 2, _ | 1, _, 3, _ => rfl
  | 2, _, 0, _ | 2, _, 1, _ | 2, _, 2, _ | 2, _, 3, _ => rfl

theorem xor_eq_true_iff {a b : Bool} : (a ^^ b) = true ↔ ¬ (a = true ↔ b = true) := by
  revert a b; decide

/-- The block is (I + shift(-8))·(I + shift(11)) = I + shift(11) + shift(-8)·(I + shift(11)); no two of its four terms have a one in
the same place. -/
theorem bit_trBlock_new_s0 {i j : Nat} (hi : i < 32) (hj : j < 32) :
    (trBlock 3 0).bit i j = true ↔
      j = i ∨ j = i + 11 ∨ (8 ≤ i ∧ j = i - 8) ∨ (8 ≤ i ∧ j = i + 3) := by
  have hfactor (m : Nat) (hm : m < 32) : (BitMat.add BitMat.ident (shiftBlock 11)).bit m j =
      (decide (m = j) ^^ decide ((j : Int) = (m : Int) + 11)) := by
    rw [BitMat.bit_add, BitMat.bit_ident hm hj, shiftBlock_bit _ hm hj]
  rw [trBlock, BitMat.add_mul, BitMat.ident_mul, BitMat.bit_add, hfactor i hi, show (-8 : Int) = -(8 : Nat) from rfl,
    bit_shiftBlock_neg_mul 8 _ hi, hfactor (i - 8) (by omega)]
  simp only [xor_eq_true_iff, Bool.and_eq_true, decide_eq_true_eq]
  omega

theorem bit_trBlock_new_s3 {i j : Nat} (hi : i < 32) (hj : j < 32) :
    (trBlock 3 3).bit i j = true ↔ j = i ∨ (19 ≤ i ∧ j = i - 19) := by
  rw [trBlock, BitMat.bit_add, BitMat.bit_ident hi hj, shiftBlock_bit _ hi hj]
  simp only [xor_eq_true_iff, decide_eq_true_eq]
  omega

theorem bit_trBlock_new_middle {k : Nat} (hk : k = 1 ∨ k = 2) (i j : Nat) : (trBlock 3 k).bit i j = false := by
  rcases hk with rfl | rfl
  · exact BitMat.bit_zero i j
  · exact BitMat.bit_zero i j

theorem bit_trBlock_of_lt {b k i j : Nat} (hb : b < 3) (hk : k < 4) (hi : i < 32) (hj : j < 32) :
    (trBlock b k).bit i j = true ↔ k = b + 1 ∧ i = j := by
  rw [trBlock_of_lt hb hk]
  split
  · rename_i h; simp [BitMat.bit_ident hi hj, h]
  · rename_i h; simp [BitMat.bit_zero, h]

/-- The closed form of Tr (R161). -/
theorem bit_trMatrix_iff {r c : Nat} (hr : r < 128) (hc : c < 128) :
    trMatrix.bit r c = true ↔
      (r ≤ 95 ∧ c = r + 32) ∨
      (96 ≤ r ∧
        (c = r - 96 ∨ (r - 96 ≤ 20 ∧ c = r - 96 + 11) ∨ (8 ≤ r - 96 ∧ c = r - 96 - 8) ∨
          (8 ≤ r - 96 ∧ r - 96 ≤ 28 ∧ c = r - 96 + 3) ∨ c = r ∨ (19 ≤ r - 96 ∧ c = r - 19))) := by
  have hi : r % 32 < 32 := Nat.mod_lt r (by decide)
  have hj : c % 32 < 32 := Nat.mod_lt c (by decide)
  rw [bit_trMatrix hr hc]
  by_cases hlow : r < 96
  · rw [bit_trBlock_of_lt (by omega) (by omega) hi hj]
    omega
  · rw [show r / 32 = 3 by omega]
    have hk : c / 32 = 0 ∨ (c / 32 = 1 ∨ c / 32 = 2) ∨ c / 32 = 3 := by omega
    rcases hk with hk | hk | hk
    · rw [hk, bit_trBlock_new_s0 hi hj]
      omega
    · rw [bit_trBlock_new_middle hk]
      refine iff_of_false Bool.false_ne_true ?_
      omega
    · rw [hk, bit_trBlock_new_s3 hi hj]
      omega

/-! ### Powers of Tr and forward steps (R175) -/

theorem pow_trMatrix_mulVec (n : Nat) (g : GenState) (o : Word) : (trMatrix.pow n).mulVec g.vec = (fwdN n (g, o)).1.vec := by
  induction n generalizing g o with
  | zero => exact BitMat.ident_mulVec g.vec
  | succ n ih =>
    rw [BitMat.pow_succ, BitMat.mulVec_mul, ← vec_fwd]
    exact ih (fwd g).1 (fwd g).2

/-- The output of the last forward step is the new s3 (R131). -/
theorem fwdN_succ_out (n : Nat) (p : GenState × Word) : (fwdN (n + 1) p).2 = (fwdN (n + 1) p).1.s3 := by
  induction n generalizing p with
  | zero => rfl
  | succ n ih => exact ih (fwd p.1)

namespace Machine

theorem dot_row (A : Matrix) (v : Row) {r : Nat} (hr : r < 128) : dot (A.row r) v = (A.mulVec v).getMsbD r :=
  (BitMat.getMsbD_mulVec A v hr).symm

/-- Row 124 + q of a power of Tr is the linear expression of bit 3 - q of that step's output (R183). -/
theorem dot_row_pow_trMatrix (n : Nat) {q : Nat} (hq : q < 4) (g : GenState) (o : Word) :
    dot ((trMatrix.pow (n + 1)).row (124 + q)) g.vec = (fwdN (n + 1) (g, o)).2.getLsbD (3 - q) := by
  rw [dot_row _ _ (by omega), pow_trMatrix_mulVec (n + 1) g o, getMsbD_vec _ (by omega), fwdN_succ_out,
    show (124 + q) / 32 = 3 by omega, show 31 - (124 + q) % 32 = 3 - q by omega]
  rfl

/-! ### The records of MROWS (R182, R183) -/

theorem getElem_recordRows (i : Nat) (W : Matrix) (E : Vector Row 256) {q : Nat} (hq : q < 4) (h : 4 * i + q < 256) :
    (recordRows i W E)[4 * i + q] = W.row (124 + q) := by
  match q, hq with
  | 0, _ | 1, _ | 2, _ | 3, _ => simp [recordRows]

theorem getElem_recordRows_of_lt (i : Nat) (W : Matrix) (E : Vector Row 256) {r : Nat} (hr : r < 256) (h : r < 4 * i) :
    (recordRows i W E)[r] = E[r] := by
  simp only [recordRows]
  rw [Vector.getElem_setIfInBounds_ne _ (by omega), Vector.getElem_setIfInBounds_ne _ (by omega),
    Vector.getElem_setIfInBounds_ne _ (by omega), Vector.getElem_setIfInBounds_ne _ (by omega)]

/-- The loop from record i on leaves the rows of the records before i alone. -/
theorem getElem_recordLoop_of_lt (T : Matrix) (gap : Nat → Nat) {r : Nat} (hr : r < 256) (k i : Nat) (W : Matrix)
    (E : Vector Row 256) (h : r < 4 * i) : (recordLoop T gap k i W E)[r] = E[r] := by
  induction k generalizing i W E with
  | zero => rfl
  | succ k ih => rw [recordLoop, ih _ _ _ (by omega), getElem_recordRows_of_lt i W E hr h]

/-- Before record i the loop's matrix is T^(1 + G[0] + ... + G[i-1]), and so each record is rows of that power. -/
theorem getElem_recordLoop (T : Matrix) (s : State) {j q : Nat} (hq : q < 4) (hr : 4 * j + q < 256) (k i : Nat)
    (E : Vector Row 256) (hij : i ≤ j) (hjk : j < i + k) :
    (recordLoop T s.gap k i (T.pow (1 + s.gapSum i)) E)[4 * j + q] = (T.pow (1 + s.gapSum j)).row (124 + q) := by
  induction k generalizing i E with
  | zero => omega
  | succ k ih =>
    rw [recordLoop, BitMat.pow_mul_pow, show 1 + s.gapSum i + s.gap i = 1 + s.gapSum (i + 1) from Nat.add_assoc ..]
    by_cases h : i = j
    · subst h
      rw [getElem_recordLoop_of_lt _ _ hr _ _ _ _ (by omega), getElem_recordRows _ _ _ hq]
    · exact ih (i + 1) _ (by omega) (by omega)

/-- Every record of MROWS: rows 124..127 of the power that its gap sum names. -/
theorem getElem?_recordLoop_mrows (ra : MatReg) (s : State) (hn : s.ngap.toNat ≤ 64) {i q : Nat} (hi : i < s.ngap.toNat)
    (hq : q < 4) :
    (recordLoop (s.mat ra) s.gap s.ngapCount 0 (s.mat ra) s.eqns)[4 * i + q]? =
      some (((s.mat ra).pow (1 + s.gapSum i)).row (124 + q)) := by
  have hr : 4 * i + q < 256 := by omega
  have hloop := getElem_recordLoop (s.mat ra) s hq hr s.ngapCount 0 s.eqns (Nat.zero_le i) (by rwa [Nat.zero_add])
  rw [show (s.mat ra).pow (1 + s.gapSum 0) = s.mat ra from BitMat.pow_one _] at hloop
  rw [Vector.getElem?_eq_getElem hr, hloop]

theorem getElem?_recordLoop_mrows_of_ge (ra : MatReg) (s : State) {r : Nat} (h : 4 * s.ngap.toNat ≤ r) :
    (recordLoop (s.mat ra) s.gap s.ngapCount 0 (s.mat ra) s.eqns)[r]? = s.eqns[r]? := by
  by_cases hr : r < 256
  · rw [Vector.getElem?_eq_getElem hr, Vector.getElem?_eq_getElem hr,
      getElem_recordLoop_of_ge _ _ hr _ _ _ _ (by rwa [Nat.zero_add])]
  · rw [Vector.getElem?_eq_none (by omega), Vector.getElem?_eq_none (by omega)]

/-- Settles O32: the records of the loop, and a row of a power of Tr as the output bit's linear expression. -/
theorem mrowsRecordsPowers : Obligations.MrowsRecordsPowers := by
  unfold Obligations.MrowsRecordsPowers
  intro ra s hn
  refine ⟨recordLoop (s.mat ra) s.gap s.ngapCount 0 (s.mat ra) s.eqns, exec_mrows_ok s ra hn,
    fun i hi q hq => getElem?_recordLoop_mrows ra s hn hi hq, fun r hr => getElem?_recordLoop_mrows_of_ge ra s hr,
    fun hT i hi q hq g => ?_⟩
  rw [getElem?_recordLoop_mrows ra s hn hi hq, Option.getD_some, hT, Nat.add_comm 1]
  exact dot_row_pow_trMatrix _ hq g 0

/-! ### Powers of Tr as commands (R175, R181) -/

/-- Settles O16, by induction on the number of steps. -/
theorem powerLaw : Obligations.PowerLaw := by
  unfold Obligations.PowerLaw
  exact pow_trMatrix_mulVec

/-- Settles O17: MPOW reads M[m] before it writes M[md], and the power law gives what MAPPLY leaves. -/
theorem mpowMapplyEqualsStepn : Obligations.MpowMapplyEqualsStepn := by
  unfold Obligations.MpowMapplyEqualsStepn
  intro s md m hm
  refine ⟨_, _, (execAll_cons_of_next (exec_mpow s md m) _).trans ((execAll_singleton _ _).trans (exec_mapply _ md)),
    exec_stepn s, ?_, rfl⟩
  simp only [State.complete_gen, State.setGen_gen, State.setOut_gen, State.setMat_gen, State.mat_complete,
    State.mat_setMat_self, hm]
  rw [pow_trMatrix_mulVec _ _ s.out, unvec_vec]

/-! ### The entries the writing commands leave (R163–R168) -/

/-- Settles O18, by the entries of the zero and of the identity matrix. -/
theorem mzeroMidentEntries : Obligations.MzeroMidentEntries := by
  unfold Obligations.MzeroMidentEntries
  exact fun rd s => ⟨⟨_, exec_mzero s rd, fun r _ c _ => BitMat.bit_zero r c⟩,
    ⟨_, exec_mident s rd, fun r hr c hc => BitMat.bit_ident hr hc⟩⟩

/-- Settles O19, by the closed form of Tr's entries. -/
theorem mtrEntries : Obligations.MtrEntries := by
  unfold Obligations.MtrEntries
  exact fun rd s => ⟨_, exec_mtr s rd, fun r hr c hc => bit_trMatrix_iff hr hc⟩

/-- Settles O20, by the entries of a matrix with one block placed and those of the block. -/
theorem mblkPlacesBlock : Obligations.MblkPlacesBlock := by
  unfold Obligations.MblkPlacesBlock
  intro mode rd bi bj kind s
  refine ⟨_, exec_mblk s mode rd bi bj kind, fun r hr c hc => ?_⟩
  rw [bit_placeBlock _ _ _ hr hc bj.isLt, BlockKind.bit_block kind (Nat.mod_lt r (by decide)) (Nat.mod_lt c (by decide))]
  cases mode <;> cases kind <;> rfl

/-- Settles O21, by the sign of k for the word shifts. -/
theorem shiftBlockShiftsWords : Obligations.ShiftBlockShiftsWords := by
  unfold Obligations.ShiftBlockShiftsWords
  refine fun k => ⟨fun i hi j hj => by rw [shiftBlock_bit k hi hj, decide_eq_true_eq], fun x hk => ?_, fun x hk => ?_,
    fun hk => hk ▸ shiftBlock_zero, shiftBlock_of_far⟩
  · have h := shiftBlock_mulVec_left k.toNat x
    rwa [Int.toNat_of_nonneg hk] at h
  · have h := shiftBlock_mulVec_right (-k).toNat x
    rwa [Int.toNat_of_nonneg (by omega), Int.neg_neg] at h

/-! ### The laws of products, powers and transposes (R169, R173, R177) -/

/-- Settles O28: the product is associative, and so powers add in either order. -/
theorem compositionLaws : Obligations.CompositionLaws := by
  unfold Obligations.CompositionLaws
  exact ⟨BitMat.mul_assoc, fun T a b => ⟨T.pow_mul_pow a b, Nat.add_comm b a ▸ T.pow_mul_pow b a⟩, BitMat.pow_mulVec⟩

/-- Settles O29, entry by entry, and for powers by induction. -/
theorem transposeLaws : Obligations.TransposeLaws := by
  unfold Obligations.TransposeLaws
  exact ⟨BitMat.transpose_mul, BitMat.transpose_add, BitMat.transpose_pow⟩

/-- Settles O30, entry by entry. -/
theorem blockCompositionLaw : Obligations.BlockCompositionLaw := by
  unfold Obligations.BlockCompositionLaw
  exact fun p q t X Y => placeBlock_mul_placeBlock q.isLt t.isLt X Y

/-! ### The count limits (R182, R220) -/

/-- Settles O9, by the branch of MROWS and of SOLVE where the count is past its limit. -/
theorem countLimitsRaiseBadArg : Obligations.CountLimitsRaiseBadArg := by
  unfold Obligations.CountLimitsRaiseBadArg
  exact ⟨fun ra s h => exec_mrows_bad s ra h, exec_solve_bad⟩

end Machine

end Sys2Proof
end

section
/-! SUPPORT. The elimination of SOLVE as a whole: what FORWARD and BACK leave of the system's solutions, rank and columns, and the
rows that become pivots: the statements of the family `42_solver.md`. -/

namespace Sys2Proof

open Machine

/-! ### The GF(2) product of a row and a vector -/

theorem dot_xor_left (a b x : Row) : dot (a ^^^ b) x = (dot a x ^^ dot b x) := by
  simp only [dot, BitVec.getMsbD_xor, Bool.and_xor_distrib_right, xorBits_xor]

/-- A product where only position c can hold a 1 in both factors. -/
theorem dot_of_single {a x : Row} {c : Nat} (hc : c < 128)
    (h : ∀ p < 128, p ≠ c → a.getMsbD p = false ∨ x.getMsbD p = false) : dot a x = (a.getMsbD c && x.getMsbD c) := by
  calc dot a x = xorBits 128 fun p => decide (p = c) && (a.getMsbD p && x.getMsbD p) := by
        refine xorBits_congr fun p hp => ?_
        by_cases hpc : p = c
        · simp [hpc]
        · rcases h p hp hpc with h | h <;> simp [hpc, h]
    _ = (a.getMsbD c && x.getMsbD c) := by simp [xorBits_single, hc]

theorem dot_zero_left (x : Row) : dot 0 x = false := by simp [dot]

theorem dot_xorVecs_eq_false {k : Nat} {f : Nat → Row} {x : Row} (h : ∀ i < k, dot (f i) x = false) :
    dot (xorVecs k f) x = false := by
  induction k with
  | zero => exact dot_zero_left x
  | succ k ih => rw [xorVecs, dot_xor_left, ih fun i hi => h i (by omega), h k (by omega)]; rfl

/-! ### The exchange of two rows (R221) -/

namespace Machine

theorem exchange_id_lt {c p k r : Nat} (hc : c < k) (hp : p < k) (hr : r < k) : exchange id c p r < k := by
  simp only [exchange, id]; (repeat' split) <;> assumption

theorem exchange_id_exchange_id (c p r : Nat) : exchange id c p (exchange id c p r) = r := by
  simp only [exchange, id]; (repeat' split) <;> omega

theorem exchange_eq_comp (ord : Nat → Nat) (c p r : Nat) : exchange ord c p r = ord (exchange id c p r) := by
  simp only [exchange, id, apply_ite ord]

theorem exchange_id_of_lt {c p r : Nat} (hp : c ≤ p) (hr : r < c) : exchange id c p r = r :=
  exchange_of_ne id (by omega) (by omega)

theorem le_exchange_id {c p r : Nat} (hp : c ≤ p) (hr : c ≤ r) : c ≤ exchange id c p r := by
  simp only [exchange, id]; (repeat' split) <;> omega

end Machine

/-! ### Solutions of the equations, and of the homogeneous ones -/

/-- What is left of an equation at x: 0 exactly when x solves it, or, for t = 0, when x solves it with right-hand side 0. -/
def Equation.residual (e : Equation) (x : Row) (t : Bool) : Bool := dot e.coef x ^^ (e.rhs && t)

theorem Equation.residual_homogeneous (e : Equation) (x : Row) : e.residual x false = dot e.coef x := by simp [residual]

theorem Equation.residual_eq_false_iff (e : Equation) (x : Row) : e.residual x true = false ↔ dot e.coef x = e.rhs := by
  simp [residual]

theorem Equation.residual_add (a b : Equation) (x : Row) (t : Bool) :
    (a.add b).residual x t = (a.residual x t ^^ b.residual x t) := by
  change (dot (a.coef ^^^ b.coef) x ^^ ((a.rhs ^^ b.rhs) && t)) = _
  rw [dot_xor_left, Bool.and_xor_distrib_right, residual, residual, Bool.xor_assoc, Bool.xor_assoc,
    Bool.xor_left_comm (dot b.coef x)]

/-- x solves the rows before k of the system (t = 1), or their homogeneous equations (t = 0). -/
def SolvesRows (k : Nat) (A : EqSystem) (x : Row) (t : Bool) : Prop := ∀ r < k, (eqnAt A r).residual x t = false

theorem SolvesRows.mono {j k : Nat} {A : EqSystem} {x : Row} {t : Bool} (h : SolvesRows k A x t) (hj : j ≤ k) :
    SolvesRows j A x t := fun r hr => h r (by omega)

/-- A bit that adds over equations, such as a coefficient or the residual, after an equation may have been added. -/
theorem apply_ite_add {φ : Equation → Bool} (hφ : ∀ a b, φ (a.add b) = (φ a ^^ φ b)) (P : Prop) [Decidable P]
    (a b : Equation) :
    φ (if P then a.add b else a) = (φ a ^^ (decide P && φ b)) := by
  by_cases h : P <;> simp [h, hφ]

theorem residual_elimBelow (A : EqSystem) (c r : Nat) (x : Row) (t : Bool) :
    (eqnAt (elimBelow A c) r).residual x t =
      ((eqnAt A r).residual x t ^^ (decide (c < r ∧ coefAt A r c = true) && (eqnAt A c).residual x t)) := by
  rw [eqnAt_elimBelow]
  exact apply_ite_add (φ := fun e => e.residual x t) (fun a b => a.residual_add b x t) ..

theorem residual_backCol (A : EqSystem) (c r : Nat) (x : Row) (t : Bool) :
    (eqnAt (backCol A c) r).residual x t =
      ((eqnAt A r).residual x t ^^ (decide (r < c ∧ coefAt A r c = true) && (eqnAt A c).residual x t)) := by
  rw [eqnAt_backCol]
  exact apply_ite_add (φ := fun e => e.residual x t) (fun a b => a.residual_add b x t) ..

/-- Adding row c to other rows of the first k keeps their solutions. -/
theorem solvesRows_iff_of_addRow {A B : EqSystem} {k c : Nat} {x : Row} {t : Bool} (hc : c < k) {b : Nat → Bool}
    (hbc : b c = false)
    (hB : ∀ r, (eqnAt B r).residual x t = ((eqnAt A r).residual x t ^^ (b r && (eqnAt A c).residual x t))) :
    SolvesRows k B x t ↔ SolvesRows k A x t := by
  have hrow : (eqnAt B c).residual x t = (eqnAt A c).residual x t := by simp [hB, hbc]
  constructor <;> intro h r hr
  · have hr' := h r hr
    rwa [hB, ← hrow, h c hc, Bool.and_false, Bool.xor_false] at hr'
  · rw [hB, h r hr, h c hc]; simp

theorem solvesRows_elimBelow {A : EqSystem} {k c : Nat} (hc : c < k) (x : Row) (t : Bool) :
    SolvesRows k (elimBelow A c) x t ↔ SolvesRows k A x t :=
  solvesRows_iff_of_addRow hc (by simp) fun r => residual_elimBelow A c r x t

theorem solvesRows_backCol {A : EqSystem} {k c : Nat} (hc : c < k) (x : Row) (t : Bool) :
    SolvesRows k (backCol A c) x t ↔ SolvesRows k A x t :=
  solvesRows_iff_of_addRow hc (by simp) fun r => residual_backCol A c r x t

theorem solvesRows_swapEqns {A : EqSystem} {c p : Nat} (hc : c < A.length) (hp : p < A.length) (x : Row) (t : Bool) :
    SolvesRows A.length (swapEqns A c p) x t ↔ SolvesRows A.length A x t := by
  constructor <;> intro h r hr
  · have := h _ (exchange_id_lt hc hp hr)
    rwa [eqnAt_swapEqns_exchange hc hp, exchange_id_exchange_id] at this
  · rw [eqnAt_swapEqns_exchange hc hp]
    exact h _ (exchange_id_lt hc hp hr)

/-- BACK keeps the solutions of the rows it works on (R222). -/
theorem solvesRows_backFrom {k m : Nat} (A : EqSystem) (h : m ≤ k) (x : Row) (t : Bool) :
    SolvesRows k (backFrom m A) x t ↔ SolvesRows k A x t := by
  induction m generalizing A with
  | zero => rfl
  | succ m ih => rw [backFrom, ih _ (by omega), solvesRows_backCol (by omega)]

/-! ### The triangular form (R221) -/

theorem coefAt_elimBelow (A : EqSystem) (c r j : Nat) :
    coefAt (elimBelow A c) r j = (coefAt A r j ^^ (decide (c < r ∧ coefAt A r c = true) && coefAt A c j)) := by
  rw [coefAt, eqnAt_elimBelow]
  exact apply_ite_add (φ := fun e => e.coef.getMsbD j) (fun a b => BitVec.getMsbD_xor) ..

theorem coefAt_backCol (A : EqSystem) (c r j : Nat) :
    coefAt (backCol A c) r j = (coefAt A r j ^^ (decide (r < c ∧ coefAt A r c = true) && coefAt A c j)) := by
  rw [coefAt, eqnAt_backCol]
  exact apply_ite_add (φ := fun e => e.coef.getMsbD j) (fun a b => BitVec.getMsbD_xor) ..

theorem coefAt_swapEqns {A : EqSystem} {c p : Nat} (hc : c < A.length) (hp : p < A.length) (r j : Nat) :
    coefAt (swapEqns A c p) r j = coefAt A (exchange id c p r) j := by
  rw [coefAt, eqnAt_swapEqns_exchange hc hp, coefAt]

/-- The columns before k have a 1 at their own row and none below it. -/
structure Triangular (k : Nat) (A : EqSystem) : Prop where
  diag : ∀ i < k, coefAt A i i = true
  below : ∀ i < k, ∀ r, i < r → coefAt A r i = false

namespace Triangular

variable {k : Nat} {A : EqSystem}

/-- Each of the columns has its row. -/
theorem le_length (h : Triangular k A) : k ≤ A.length := by
  refine Nat.le_of_not_lt fun hk => ?_
  have := h.diag A.length hk
  rw [coefAt_of_ge (Nat.le_refl _)] at this
  contradiction

/-- At or below row k, the product with a vector that is 0 past k is its term at k. -/
theorem dot_of_tail (h : Triangular k A) {c r : Nat} (hck : c ≤ k) (hc : c < 128) (hr : c ≤ r) {x : Row}
    (hx : ∀ p, c < p → x.getMsbD p = false) : dot (eqnAt A r).coef x = (coefAt A r c && x.getMsbD c) := by
  refine dot_of_single hc fun p _ hpc => ?_
  by_cases hp : p < c
  · exact .inl (h.below p (by omega) r (by omega))
  · exact .inr (hx p (by omega))

/-! ### BACK on the triangular form (R222) -/

theorem after_backCol (h : Triangular k A) (m : Nat) : Triangular k (backCol A m) where
  diag i hi := by
    rw [coefAt_backCol, h.diag i hi]
    by_cases him : i < m
    · simp [h.below i hi m him]
    · simp [him]
  below i hi r hr := by
    rw [coefAt_backCol, h.below i hi r hr]
    by_cases hrm : r < m
    · simp [h.below i hi m (by omega)]
    · simp [hrm]

/-- Column m is cleared above its row, and the columns cleared before stay so: row m has no 1 in them. -/
theorem above_backCol {m : Nat} (h : Triangular k A) (hm : m < k)
    (ha : ∀ j, m < j → j < k → ∀ r < j, coefAt A r j = false) :
    ∀ j, m ≤ j → j < k → ∀ r < j, coefAt (backCol A m) r j = false := by
  intro j hj hjk r hr
  rw [coefAt_backCol]
  rcases Nat.eq_or_lt_of_le hj with rfl | hj
  · simp [hr, h.diag m hm]
  · simp [ha j hj hjk r hr, ha j hj hjk m hj]

theorem backFrom_of_above {m : Nat} (h : Triangular k A) (hm : m ≤ k)
    (ha : ∀ j, m ≤ j → j < k → ∀ r < j, coefAt A r j = false) :
    Triangular k (backFrom m A) ∧ ∀ j < k, ∀ r < j, coefAt (backFrom m A) r j = false := by
  induction m generalizing A with
  | zero => exact ⟨h, fun j => ha j (by omega)⟩
  | succ m ih => exact ih (h.after_backCol m) (by omega) (h.above_backCol (by omega) ha)

/-- BACK makes the columns of the triangular form those of the identity. -/
theorem coefAt_backFrom (h : Triangular k A) {j : Nat} (hj : j < k) (r : Nat) :
    coefAt (backFrom k A) r j = decide (r = j) := by
  obtain ⟨ht, ha⟩ := h.backFrom_of_above (Nat.le_refl k) fun j hj hjk => by omega
  rcases Nat.lt_trichotomy r j with hr | rfl | hr
  · simp [ha j hj r hr, Nat.ne_of_lt hr]
  · simp [ht.diag r hj]
  · simp [ht.below j hj r hr, Nat.ne_of_gt hr]

/-- The triangular rows have a common zero that is 1 at the next column and 0 past it: BACK shows it in that column. -/
theorem exists_zero (h : Triangular k A) (hk : k < 128) :
    ∃ x : Row, x.getMsbD k = true ∧ (∀ p, k < p → x.getMsbD p = false) ∧ SolvesRows k A x false := by
  refine ⟨bitsOf 128 fun p => decide (p = k) || (decide (p < k) && coefAt (backFrom k A) p k), by simp [hk], ?_, ?_⟩
  · intro p hp
    simp [Nat.ne_of_gt hp, Nat.not_lt_of_gt hp]
  · rw [← solvesRows_backFrom A (Nat.le_refl _)]
    intro i hi
    rw [Equation.residual_homogeneous, dot]
    calc _ = xorBits 128 fun p => (decide (p = i) && coefAt (backFrom k A) i k) ^^
          (decide (p = k) && coefAt (backFrom k A) i k) := by
          refine xorBits_congr fun p hp => ?_
          change (coefAt (backFrom k A) i p && _) = _
          rcases Nat.lt_trichotomy p k with h' | rfl | h'
          · rw [h.coefAt_backFrom h' i]
            by_cases hpi : p = i
            · subst hpi; simp [hp, h', Nat.ne_of_lt h']
            · simp [hpi, Ne.symm hpi, Nat.ne_of_lt h']
          · simp [hp, Nat.ne_of_gt hi]
          · simp [Nat.ne_of_gt h', Nat.not_lt_of_gt h', Nat.ne_of_gt (Nat.lt_trans hi h')]
      _ = false := by
          rw [xorBits_xor, xorBits_single, xorBits_single]
          simp [hk, Nat.lt_trans hi hk]

/-- The solution of the 128 rows is what BACK leaves in their right-hand sides (R223). -/
theorem solvesRows_iff_eq_solution (h : Triangular 128 A) (x : Row) :
    SolvesRows 128 A x true ↔ x = solution (backFrom 128 A) := by
  have hrow : ∀ i < 128, dot (eqnAt (backFrom 128 A) i).coef x = x.getMsbD i := by
    intro i hi
    rw [dot_of_single hi fun p hp hpi => .inl ((h.coefAt_backFrom hp i).trans (by simp [Ne.symm hpi]))]
    change (coefAt _ i i && _) = _
    simp [h.coefAt_backFrom hi]
  rw [← solvesRows_backFrom A (Nat.le_refl _)]
  constructor
  · intro hs
    refine BitVec.eq_of_getMsbD_eq fun i hi => ?_
    rw [getMsbD_solution _ hi, ← (Equation.residual_eq_false_iff _ x).1 (hs i hi), hrow i hi]
  · rintro rfl i hi
    rw [Equation.residual_eq_false_iff, hrow i hi, getMsbD_solution _ hi]

/-- Past the pivots only right-hand sides are left (R222, R225). -/
theorem residual_backFrom_of_ge (h : Triangular 128 A) {r : Nat} (hr : 128 ≤ r) (x : Row) :
    (eqnAt (backFrom 128 A) r).residual x true = (eqnAt (backFrom 128 A) r).rhs := by
  have hz : (eqnAt (backFrom 128 A) r).coef = 0 := BitVec.eq_of_getMsbD_eq fun j hj => by
    exact (h.coefAt_backFrom hj r).trans ((decide_eq_false (by omega)).trans BitVec.getMsbD_zero.symm)
  rw [Equation.residual, hz, dot_zero_left, Bool.false_xor, Bool.and_true]

end Triangular

theorem inconOf_eq_false_iff (A : EqSystem) :
    inconOf A = false ↔ ∀ r, 128 ≤ r → r < A.length → (eqnAt A r).rhs = false := by
  simp only [inconOf, List.any_eq_false, List.mem_drop_iff_getElem, Bool.not_eq_true]
  constructor
  · intro h r hr hl
    rw [eqnAt_eq_getElem hl]
    exact h _ ⟨r - 128, by omega, by simp only [Nat.add_sub_cancel' hr]⟩
  · rintro h _ ⟨r, hr, rfl⟩
    rw [← eqnAt_eq_getElem]
    exact h _ (by omega) (by omega)

/-- All rows are solved exactly by the solution of the first 128, and only when no right-hand side is left past them (R225). -/
theorem Triangular.solvesRows_length_iff {A : EqSystem} (h : Triangular 128 A) (x : Row) :
    SolvesRows A.length A x true ↔ x = solution (backFrom 128 A) ∧ inconOf (backFrom 128 A) = false := by
  have hl := h.le_length
  rw [← h.solvesRows_iff_eq_solution, inconOf_eq_false_iff, length_backFrom]
  constructor
  · intro hs
    refine ⟨hs.mono hl, fun r hr hrl => ?_⟩
    rw [← h.residual_backFrom_of_ge hr x]
    exact (solvesRows_backFrom A hl x true).2 hs r hrl
  · rintro ⟨hs, hi⟩
    rw [← solvesRows_backFrom A hl x true]
    intro r hrl
    by_cases hr : r < 128
    · exact (solvesRows_backFrom A (Nat.le_refl _) x true).2 hs r hr
    · rw [h.residual_backFrom_of_ge (by omega)]
      exact hi r (by omega) hrl

/-! ### FORWARD, column by column (R221) -/

/-- `Forward A c B`: FORWARD over the columns before c found its pivots and made B of A. -/
inductive Forward (A : EqSystem) : Nat → EqSystem → Prop
  | start : Forward A 0 A
  | col {c p : Nat} {B : EqSystem} (h : Forward A c B) (hp : findPivot B c = some p) :
    Forward A (c + 1) (elimBelow (swapEqns B c p) c)

theorem forwardFrom_ok_forward {A B C : EqSystem} {k c : Nat} (h : Forward A c B) (e : forwardFrom k c B = .ok C) :
    Forward A (c + k) C := by
  induction k generalizing c B with
  | zero => cases e; exact h
  | succ k ih =>
    rw [forwardFrom_succ] at e
    cases e' : forwardCol B c with
    | error _ => simp [e'] at e
    | ok B' =>
      obtain ⟨p, hp, rfl⟩ := forwardCol_ok e'
      rw [e'] at e
      rw [← Nat.add_assoc, Nat.add_right_comm]
      exact ih (h.col hp) e

theorem forwardFrom_error_forward {A B : EqSystem} {k c d : Nat} (h : Forward A c B) (e : forwardFrom k c B = .error d) :
    ∃ C, Forward A d C ∧ findPivot C d = none := by
  induction k generalizing c B with
  | zero => simp [forwardFrom] at e
  | succ k ih =>
    rw [forwardFrom_succ] at e
    cases e' : forwardCol B c with
    | error d' =>
      obtain ⟨rfl, hp⟩ := forwardCol_error e'
      rw [e', Except.error.injEq] at e
      exact ⟨B, e ▸ h, e ▸ hp⟩
    | ok B' =>
      obtain ⟨p, hp, rfl⟩ := forwardCol_ok e'
      rw [e'] at e
      exact ih (h.col hp) e

namespace Forward

variable {A B : EqSystem} {c : Nat}

theorem of_forwardFrom_ok (e : forwardFrom c 0 A = .ok B) : Forward A c B :=
  Nat.zero_add c ▸ forwardFrom_ok_forward .start e

theorem length_eq (h : Forward A c B) : B.length = A.length := by
  induction h with
  | start => rfl
  | col _ _ ih => simp [ih]

theorem solvesRows_iff (h : Forward A c B) (x : Row) (t : Bool) :
    SolvesRows A.length B x t ↔ SolvesRows A.length A x t := by
  induction h with
  | start => rfl
  | @col c p B h hp ih =>
    obtain ⟨hpl, hcp, -, -⟩ := findPivot_some hp
    rw [← h.length_eq] at ih ⊢
    rw [solvesRows_elimBelow (by omega), solvesRows_swapEqns (by omega) hpl, ih]

/-- One column of FORWARD adds it to the triangular form. -/
theorem triangular (h : Forward A c B) : Triangular c B := by
  induction h with
  | start => exact ⟨fun i hi => by omega, fun i hi => by omega⟩
  | @col c p B h hp ih =>
    obtain ⟨hpl, hcp, hpc, -⟩ := findPivot_some hp
    have hs : ∀ r j, coefAt (swapEqns B c p) r j = coefAt B (exchange id c p r) j :=
      coefAt_swapEqns (by omega) hpl
    have hsc : coefAt (swapEqns B c p) c c = true := by rw [hs, exchange_pivot]; exact hpc
    have hbelow : ∀ i < c, ∀ r, i < r → coefAt (swapEqns B c p) r i = false := fun i hi r hr => by
      rw [hs]
      refine ih.below i hi _ ?_
      by_cases hrc : r < c
      · rwa [exchange_id_of_lt hcp hrc]
      · exact Nat.lt_of_lt_of_le hi (le_exchange_id hcp (by omega))
    constructor
    · intro i hi
      rw [coefAt_elimBelow]
      rcases Nat.eq_or_lt_of_le (Nat.le_of_lt_succ hi) with rfl | hi
      · simp [hsc]
      · rw [hs, exchange_id_of_lt hcp hi, ih.diag i hi]
        simp [Nat.not_lt_of_gt hi]
    · intro i hi r hr
      rw [coefAt_elimBelow]
      rcases Nat.eq_or_lt_of_le (Nat.le_of_lt_succ hi) with rfl | hi
      · simp [hsc, hr]
      · simp [hbelow i hi r hr, hbelow i hi c hi]

end Forward

namespace Machine

/-! ### Rank and dependent columns (R226, R227) -/

/-- A vector that is 0 from position n on is 0, or has a last 1 before n. -/
theorem eq_zero_or_exists_last_one {x : Row} {n : Nat} (hn : n ≤ 128) (hx : ∀ p, n ≤ p → x.getMsbD p = false) :
    x = 0 ∨ ∃ c < 128, x.getMsbD c = true ∧ ∀ p, c < p → x.getMsbD p = false := by
  induction n with
  | zero => exact .inl (BitVec.eq_of_getMsbD_eq fun p _ => (hx p (Nat.zero_le p)).trans BitVec.getMsbD_zero.symm)
  | succ n ih =>
    cases hxn : x.getMsbD n with
    | true => exact .inr ⟨n, hn, hxn, hx⟩
    | false =>
      refine ih (by omega) fun p hp => ?_
      rcases Nat.eq_or_lt_of_le hp with rfl | hp
      · exact hxn
      · exact hx p hp

/-- Full rank is that no column is a combination of the columns before it: a nonzero vector shows its last 1. -/
theorem State.fullRank_iff (s : State) : s.FullRank ↔ ∀ c < 128, ¬ s.DependentColumn c := by
  constructor
  · rintro h c hc ⟨x, hxc, -, hx⟩
    rw [h x hx] at hxc
    simp at hxc
  · intro h x hx
    rcases eq_zero_or_exists_last_one (Nat.le_refl 128) fun p hp => BitVec.getMsbD_of_ge x p hp with h0 | ⟨c, hc, hxc, hpast⟩
    · exact h0
    · exact absurd ⟨x, hxc, hpast, hx⟩ (h c hc)

theorem State.satisfies_iff_solvesRows (s : State) (x : Row) :
    s.Satisfies x ↔ SolvesRows s.nrowsCount (s.system s.nrowsCount) x true := by
  refine forall₂_congr fun r hr => ?_
  rw [Equation.residual_eq_false_iff, eqnAt_system s (n := s.nrowsCount) hr]

theorem State.solvesRows_homogeneous (s : State) (x : Row) :
    SolvesRows s.nrowsCount (s.system s.nrowsCount) x false ↔ ∀ r < s.nrows.toNat, dot (s.eqn r) x = false := by
  refine forall₂_congr fun r hr => ?_
  rw [Equation.residual_homogeneous, eqnAt_system s (n := s.nrowsCount) hr]

section forward

variable {s : State} {c : Nat} {B : EqSystem}

theorem forward_length (h : Forward (s.system s.nrowsCount) c B) : B.length = s.nrowsCount := by
  rw [h.length_eq, length_system]

/-- Each column FORWARD has gone over has a row. -/
theorem forward_le_nrows (h : Forward (s.system s.nrowsCount) c B) : c ≤ s.nrows.toNat :=
  Nat.le_trans h.triangular.le_length (Nat.le_of_eq (forward_length h))

theorem forward_solvesRows_iff (h : Forward (s.system s.nrowsCount) c B) (x : Row) (t : Bool) :
    SolvesRows s.nrowsCount B x t ↔ SolvesRows s.nrowsCount (s.system s.nrowsCount) x t := by
  simpa using h.solvesRows_iff x t

/-- The column FORWARD finds no pivot for depends on the columns before it. -/
theorem dependentColumn_of_findPivot_none (h : Forward (s.system s.nrowsCount) c B) (hc : c < 128)
    (hp : findPivot B c = none) : s.DependentColumn c := by
  obtain ⟨x, hxc, hx, hz⟩ := h.triangular.exists_zero hc
  refine ⟨x, hxc, hx, (s.solvesRows_homogeneous x).1 ((forward_solvesRows_iff h x false).1 fun r _ => ?_)⟩
  by_cases hr : r < c
  · exact hz r hr
  · rw [Equation.residual_homogeneous, h.triangular.dot_of_tail (Nat.le_refl _) hc (by omega) hx, findPivot_none hp r (by omega)]
    rfl

/-- A column that has its pivot is not a combination of the columns before it: the pivot row is 0 in those. -/
theorem not_dependentColumn_of_lt (h : Forward (s.system s.nrowsCount) c B) (hc : c ≤ 128) {d : Nat} (hd : d < c) :
    ¬ s.DependentColumn d := by
  rintro ⟨x, hxd, hx, hz⟩
  have hs := (forward_solvesRows_iff h x false).2 ((s.solvesRows_homogeneous x).2 hz)
  have hrow := hs d (Nat.lt_of_lt_of_le hd (forward_le_nrows h))
  rw [Equation.residual_homogeneous, h.triangular.dot_of_tail (Nat.le_of_lt hd) (by omega) (Nat.le_refl _) hx,
    h.triangular.diag d hd, hxd] at hrow
  contradiction

end forward

/-! ### The outcomes of SOLVE (R223, R224) -/

/-- SOLVE ends BADARG, SINGULAR at the column FORWARD finds no pivot for, or with what BACK makes of FORWARD's rows. -/
theorem exec_solve_forward (s : State) :
    (256 < s.nrows.toNat ∧ exec .solve s = .next { s with err := 3, pending := none }) ∨
    (∃ c < 128, ∃ B, Forward (s.system s.nrowsCount) c B ∧ findPivot B c = none ∧
      exec .solve s = .next { s with incon := false, rankCol := BitVec.ofNat 8 c, err := 1, pending := none }) ∨
    ∃ B, Forward (s.system s.nrowsCount) 128 B ∧
      exec .solve s = .next { s with gen := unvec (solution (backFrom 128 B)), incon := inconOf (backFrom 128 B),
                                     rankCol := 128, err := 0, pending := none } := by
  rcases exec_solve_cases s with h | ⟨c, hc, e, he⟩ | ⟨B, e, he⟩
  · exact .inl h
  · obtain ⟨B, hB, hp⟩ := forwardFrom_error_forward .start e
    exact .inr (.inl ⟨c, hc, B, hB, hp, he⟩)
  · simp only [State.complete, State.setRankCol, State.setIncon, State.setGen, ErrCode.bits] at he
    exact .inr (.inr ⟨B, .of_forwardFrom_ok e, he⟩)

theorem exec_solve_of_fullRank {s : State} (hn : s.nrows.toNat ≤ 256) (hf : s.FullRank) :
    ∃ B, Forward (s.system s.nrowsCount) 128 B ∧
      exec .solve s = .next { s with gen := unvec (solution (backFrom 128 B)), incon := inconOf (backFrom 128 B),
                                     rankCol := 128, err := 0, pending := none } := by
  rcases exec_solve_forward s with ⟨h, -⟩ | ⟨c, hc, B, hB, hp, -⟩ | h
  · omega
  · exact absurd (dependentColumn_of_findPivot_none hB hc hp) (s.fullRank_iff.1 hf c hc)
  · exact h

/-- The columns before the SINGULAR one each have a row of their own, so there are no more of them than rows. -/
theorem exec_solve_of_not_fullRank {s : State} (hn : s.nrows.toNat ≤ 256) (hf : ¬ s.FullRank) :
    ∃ c < 128, c ≤ s.nrows.toNat ∧
      exec .solve s = .next { s with incon := false, rankCol := BitVec.ofNat 8 c, err := 1, pending := none } := by
  rcases exec_solve_forward s with ⟨h, -⟩ | ⟨c, hc, B, hB, -, he⟩ | ⟨B, hB, -⟩
  · omega
  · exact ⟨c, hc, forward_le_nrows hB, he⟩
  · exact absurd (s.fullRank_iff.2 fun c => not_dependentColumn_of_lt hB (Nat.le_refl _)) hf

/-- The solution and INCON together say which x satisfies every equation (R225, R226). -/
theorem satisfies_iff_of_forward {s : State} {B : EqSystem} (h : Forward (s.system s.nrowsCount) 128 B) (x : Row) :
    s.Satisfies x ↔ x = solution (backFrom 128 B) ∧ inconOf (backFrom 128 B) = false := by
  rw [s.satisfies_iff_solvesRows, ← forward_solvesRows_iff h, ← forward_length h, h.triangular.solvesRows_length_iff]

/-- Settles O34: the solution satisfies every equation exactly when INCON is 0. -/
theorem inconTellsWhetherAllHold : Obligations.InconTellsWhetherAllHold := by
  unfold Obligations.InconTellsWhetherAllHold
  intro s t he ht
  rcases exec_solve_forward s with ⟨-, e⟩ | ⟨c, -, B, -, -, e⟩ | ⟨B, hB, e⟩ <;> cases e.symm.trans he
  · simp at ht
  · simp at ht
  · rw [vec_unvec, satisfies_iff_of_forward hB, eq_self, true_and]

/-- Settles O35: a vector that satisfies every equation is the solution BACK leaves, and INCON is 0. -/
theorem solveFindsTheSolution : Obligations.SolveFindsTheSolution := by
  unfold Obligations.SolveFindsTheSolution
  intro s x hn hf hx
  obtain ⟨B, hB, e⟩ := exec_solve_of_fullRank hn hf
  obtain ⟨hsol, hincon⟩ := (satisfies_iff_of_forward hB x.vec).1 hx
  rw [e, ← hsol, unvec_vec, hincon]

/-- Settles O36: FORWARD stops at a dependent column, and the columns before it have their pivots. -/
theorem rankColIsFirstDependentColumn : Obligations.RankColIsFirstDependentColumn := by
  unfold Obligations.RankColIsFirstDependentColumn
  intro s t he ht
  rcases exec_solve_forward s with ⟨-, e⟩ | ⟨c, hc, B, hB, hp, e⟩ | ⟨B, -, e⟩ <;> cases e.symm.trans he
  · simp at ht
  · have hr : (BitVec.ofNat 8 c).toNat = c := by rw [BitVec.toNat_ofNat]; omega
    rw [hr]
    exact ⟨dependentColumn_of_findPivot_none hB hc hp, fun d => not_dependentColumn_of_lt hB (Nat.le_of_lt hc)⟩
  · simp at ht

/-- Settles O37: 128 pivots need 128 rows, and a column that FORWARD goes over has a row of its own. -/
theorem tooFewRowsAreSingular : Obligations.TooFewRowsAreSingular := by
  unfold Obligations.TooFewRowsAreSingular
  intro s hn
  have hf : ¬ s.FullRank := fun hf => by
    obtain ⟨B, hB, -⟩ := exec_solve_of_fullRank (by omega) hf
    have hl : 128 ≤ s.nrows.toNat := forward_le_nrows hB
    omega
  obtain ⟨c, -, hc, e⟩ := exec_solve_of_not_fullRank (by omega) hf
  exact ⟨c, hc, e⟩

/-- Settles O38: with INCON = 0 the solution would satisfy both rows. -/
theorem contradictingDuplicatesSetIncon : Obligations.ContradictingDuplicatesSetIncon := by
  unfold Obligations.ContradictingDuplicatesSetIncon
  intro s i j hn hf hi hj hrow hrhs
  obtain ⟨B, hB, e⟩ := exec_solve_of_fullRank hn hf
  cases hincon : inconOf (backFrom 128 B) with
  | true => exact ⟨_, hincon ▸ e⟩
  | false =>
    have hx := (satisfies_iff_of_forward hB _).2 ⟨rfl, hincon⟩
    exact absurd ((hx i hi).symm.trans (hrow ▸ hx j hj)) hrhs

/-! ### The rows that become pivots (R221, R228) -/

/-- e is a sum of some of the rows f 0, ..., f (c − 1). -/
def RowSpan (c : Nat) (f : Nat → Row) (e : Row) : Prop := ∃ z : Nat → Bool, e = xorVecs c fun i => if z i then f i else 0

namespace RowSpan

variable {c : Nat} {f : Nat → Row} {a b : Row}

theorem zero (f : Nat → Row) : RowSpan 0 f 0 := ⟨fun _ => false, rfl⟩

theorem getMsbD_sum (c : Nat) (z : Nat → Bool) (f : Nat → Row) (p : Nat) :
    (xorVecs c fun i => if z i then f i else 0).getMsbD p = xorBits c fun i => z i && (f i).getMsbD p := by
  rw [getMsbD_xorVecs]
  refine xorBits_congr fun i _ => ?_
  cases z i <;> simp

theorem xor (ha : RowSpan c f a) (hb : RowSpan c f b) : RowSpan c f (a ^^^ b) := by
  obtain ⟨y, rfl⟩ := ha
  obtain ⟨z, rfl⟩ := hb
  refine ⟨fun i => y i ^^ z i, BitVec.eq_of_getMsbD_eq fun p _ => ?_⟩
  simp only [BitVec.getMsbD_xor, getMsbD_sum, Bool.and_xor_distrib_right, xorBits_xor]

theorem congr {g : Nat → Row} (h : RowSpan c f a) (hfg : ∀ i < c, f i = g i) : RowSpan c g a := by
  obtain ⟨z, rfl⟩ := h
  refine ⟨z, BitVec.eq_of_getMsbD_eq fun p _ => ?_⟩
  rw [getMsbD_sum, getMsbD_sum]
  exact xorBits_congr fun i hi => by rw [hfg i hi]

/-- The next row may be added or not. -/
theorem succ (h : RowSpan c f a) (b : Bool) : RowSpan (c + 1) f (a ^^^ if b then f c else 0) := by
  obtain ⟨z, rfl⟩ := h
  refine ⟨fun i => if i = c then b else z i, BitVec.eq_of_getMsbD_eq fun p _ => ?_⟩
  rw [getMsbD_sum, xorBits, BitVec.getMsbD_xor, getMsbD_sum]
  congr 1
  · exact xorBits_congr fun i hi => by simp [Nat.ne_of_lt hi]
  · cases b <;> simp

end RowSpan

/-- The equation E[r] · x = RHS[r]. -/
def State.equation (s : State) (r : Nat) : Equation := ⟨s.eqn r, s.rhsBit r⟩

/-- Before column c FORWARD's rows B are the equations in the order ord, with sums of the equations at the pivot rows added. -/
structure State.Ordered (s : State) (c : Nat) (B : EqSystem) (ord : Nat → Nat) : Prop where
  /-- a row at or below c differs from its equation by a sum of the equations at rows 0..c−1 -/
  span : ∀ r, c ≤ r → r < s.nrowsCount → RowSpan c (fun i => s.eqn (ord i)) ((eqnAt B r).coef ^^^ s.eqn (ord r))
  /-- where the pivot rows are solved, every row leaves the residual of its equation -/
  residual : ∀ x t, SolvesRows c B x t → ∀ r < s.nrowsCount, (eqnAt B r).residual x t = (s.equation (ord r)).residual x t

/-- The order of LowestRowPivots as far as column k. -/
structure State.PivotsBefore (s : State) (k : Nat) (ord : Nat → Nat → Nat) : Prop where
  start : ∀ r, ord 0 r = r
  pivot : ∀ c < k, ∃ p, c ≤ p ∧ p < s.nrows.toNat ∧ s.Qualifies (ord c) c p ∧
    (∀ r, c ≤ r → r < p → ¬ s.Qualifies (ord c) c r) ∧ ord (c + 1) = exchange (ord c) c p

theorem State.PivotsBefore.lowestRowPivots {s : State} {ord : Nat → Nat → Nat} (h : s.PivotsBefore 128 ord) :
    s.LowestRowPivots ord := ⟨h.start, h.pivot⟩

/-- The orders up to column c, and after column c the one with the row p exchanged. -/
def orderAfter (ord : Nat → Nat → Nat) (c p : Nat) : Nat → Nat → Nat :=
  fun d => if d ≤ c then ord d else exchange (ord c) c p

theorem orderAfter_of_le (ord : Nat → Nat → Nat) {c p d : Nat} (h : d ≤ c) : orderAfter ord c p d = ord d := if_pos h

theorem orderAfter_succ (ord : Nat → Nat → Nat) (c p : Nat) : orderAfter ord c p (c + 1) = exchange (ord c) c p :=
  if_neg (by omega)

/-- One more column. -/
theorem State.PivotsBefore.succ {s : State} {c p : Nat} {ord : Nat → Nat → Nat} (h : s.PivotsBefore c ord) (hcp : c ≤ p)
    (hp : p < s.nrows.toNat) (hq : s.Qualifies (ord c) c p) (hl : ∀ r, c ≤ r → r < p → ¬ s.Qualifies (ord c) c r) :
    s.PivotsBefore (c + 1) (orderAfter ord c p) where
  start := by rw [orderAfter_of_le ord (Nat.zero_le c)]; exact h.start
  pivot d hd := by
    rw [orderAfter_of_le ord (Nat.le_of_lt_succ hd)]
    rcases Nat.eq_or_lt_of_le (Nat.le_of_lt_succ hd) with rfl | hd
    · exact ⟨p, hcp, hp, hq, hl, orderAfter_succ ..⟩
    · rw [orderAfter_of_le ord hd]
      exact h.pivot d hd

/-- A row qualifies for the column c exactly when FORWARD sees a 1 there. The zero x of the pivot rows that is 1 at c and 0 past c
tells the bit at c of every row that is 0 before c, whatever was added to its equation. -/
theorem State.Ordered.qualifies_iff {s : State} {c r : Nat} {B : EqSystem} {ord : Nat → Nat} (h : s.Ordered c B ord)
    (ht : Triangular c B) (hc : c < 128) (hr : c ≤ r) (hrn : r < s.nrowsCount) :
    s.Qualifies ord c r ↔ coefAt B r c = true := by
  constructor
  · rintro ⟨z, hz, hzc⟩
    obtain ⟨x, hxc, hx, hs⟩ := ht.exists_zero hc
    have hres : ∀ q < s.nrowsCount, dot (eqnAt B q).coef x = dot (s.eqn (ord q)) x := fun q hq => by
      simpa only [Equation.residual_homogeneous, State.equation] using h.residual x false hs q hq
    have hsum : dot (xorVecs c fun i => if z i then s.eqn (ord i) else 0) x = false := by
      refine dot_xorVecs_eq_false fun i hi => ?_
      split
      · rw [← hres i (by omega), ← Equation.residual_homogeneous, hs i hi]
      · exact dot_zero_left x
    calc coefAt B r c = dot (eqnAt B r).coef x := by rw [ht.dot_of_tail (Nat.le_refl _) hc hr hx, hxc, Bool.and_true]
      _ = dot (s.eqn (ord r) ^^^ xorVecs c fun i => if z i then s.eqn (ord i) else 0) x := by
          rw [hres r hrn, dot_xor_left, hsum, Bool.xor_false]
      _ = true := by
          rw [dot_of_single hc fun p _ hpc => (Nat.lt_or_gt_of_ne hpc).imp (hz p) (hx p), hzc, hxc, Bool.and_self]
  · intro hrc
    obtain ⟨z, hz⟩ := h.span r hr hrn
    have hrow : s.eqn (ord r) ^^^ xorVecs c (fun i => if z i then s.eqn (ord i) else 0) = (eqnAt B r).coef := by
      rw [← hz, BitVec.xor_comm, BitVec.xor_assoc, BitVec.xor_self, BitVec.xor_zero]
    exact ⟨z, fun p hp => hrow ▸ ht.below p hp r (by omega), hrow ▸ hrc⟩

/-- The pivot's equation d comes off its row b, so that it is added itself. -/
theorem xor_add_pivot (a b d e : Row) : (a ^^^ e) ^^^ (b ^^^ d) ^^^ d = (a ^^^ b) ^^^ e := by
  rw [BitVec.xor_assoc (a ^^^ e), BitVec.xor_assoc b, BitVec.xor_self, BitVec.xor_zero, BitVec.xor_assoc, BitVec.xor_comm e,
    BitVec.xor_assoc]

/-- FORWARD's column exchanges two equations and adds the pivot's to rows below it. -/
theorem State.Ordered.col {s : State} {c p : Nat} {B : EqSystem} {ord : Nat → Nat} (h : s.Ordered c B ord)
    (hl : B.length = s.nrowsCount) (hp : findPivot B c = some p) :
    s.Ordered (c + 1) (elimBelow (swapEqns B c p) c) (exchange ord c p) := by
  obtain ⟨hpl, hcp, -, -⟩ := findPivot_some hp
  have hc : c < B.length := Nat.lt_of_le_of_lt hcp hpl
  have hswap : ∀ r, eqnAt (swapEqns B c p) r = eqnAt B (exchange id c p r) := eqnAt_swapEqns_exchange hc hpl
  constructor
  · have hspan : ∀ r, c ≤ r → r < s.nrowsCount →
        RowSpan c (fun i => s.eqn (exchange ord c p i)) ((eqnAt (swapEqns B c p) r).coef ^^^ s.eqn (exchange ord c p r)) := by
      intro r hr hrn
      rw [hswap, exchange_eq_comp ord]
      refine (h.span _ (le_exchange_id hcp hr) (exchange_id_lt (by omega) (by omega) hrn)).congr fun i hi => ?_
      rw [exchange_of_ne ord (by omega) (by omega)]
    intro r hr hrn
    rw [eqnAt_elimBelow]
    split
    · have := ((hspan r (by omega) hrn).xor (hspan c (Nat.le_refl _) (by omega))).succ true
      rw [if_pos rfl] at this
      rwa [xor_add_pivot] at this
    · simpa using (hspan r (by omega) hrn).succ false
  · intro x t hs r hrn
    have hrow : ∀ q, (eqnAt (elimBelow (swapEqns B c p) c) q).residual x t = (eqnAt (swapEqns B c p) q).residual x t := by
      have hsc := hs c (Nat.lt_succ_self c)
      intro q
      rw [residual_elimBelow] at hsc ⊢
      simp only [Nat.lt_irrefl, false_and, decide_false, Bool.false_and, Bool.xor_false] at hsc
      rw [hsc, Bool.and_false, Bool.xor_false]
    rw [hrow, hswap, exchange_eq_comp ord]
    refine h.residual x t (fun i hi => ?_) _ (exchange_id_lt (by omega) (by omega) hrn)
    rw [← exchange_id_of_lt hcp hi, ← hswap, ← hrow]
    exact hs i (by omega)

/-- The pivots FORWARD takes are those of the lowest qualifying rows. -/
theorem exists_pivotsBefore {s : State} {c : Nat} {B : EqSystem} (h : Forward (s.system s.nrowsCount) c B) (hc : c ≤ 128) :
    ∃ ord, s.PivotsBefore c ord ∧ s.Ordered c B (ord c) := by
  induction h with
  | start =>
    refine ⟨fun _ r => r, ⟨fun _ => rfl, fun _ h => absurd h (Nat.not_lt_zero _)⟩, fun r _ hr => ?_, fun x t _ r hr => ?_⟩
    · rw [eqnAt_system s hr, BitVec.xor_self]
      exact .zero _
    · rw [eqnAt_system s hr, State.equation]
  | @col c p B h hp ih =>
    obtain ⟨ord, hb, ho⟩ := ih (by omega)
    obtain ⟨hpl, hcp, hpc, hlow⟩ := findPivot_some hp
    have hl := forward_length h
    have hq : ∀ r, c ≤ r → r < s.nrowsCount → (s.Qualifies (ord c) c r ↔ coefAt B r c = true) := fun r =>
      ho.qualifies_iff h.triangular (by omega)
    refine ⟨_, hb.succ hcp (show p < s.nrowsCount from hl ▸ hpl) ((hq p hcp (by omega)).2 hpc) fun r hr hrp => ?_, ?_⟩
    · rw [hq r hr (by omega), hlow r hr hrp]; decide
    · rw [orderAfter_succ]
      exact ho.col hl hp

/-- Settles O33: FORWARD finds its pivots exactly at full rank; its pivot rows and the equations it took them from have one
solution. -/
theorem solveDecidesRank : Obligations.SolveDecidesRank := by
  unfold Obligations.SolveDecidesRank
  refine fun s hn => ⟨fun hf => ?_, fun hf => ?_⟩
  · obtain ⟨B, hB, e⟩ := exec_solve_of_fullRank hn hf
    obtain ⟨ord, hb, ho⟩ := exists_pivotsBefore hB (Nat.le_refl _)
    have hs := (hB.triangular.solvesRows_iff_eq_solution _).2 rfl
    refine ⟨_, _, ord, e, hb.lowestRowPivots, fun i hi => ?_⟩
    rw [vec_unvec]
    refine (Equation.residual_eq_false_iff (s.equation (ord 128 i)) _).1 ?_
    rw [← ho.residual _ true hs i (Nat.lt_of_lt_of_le hi (forward_le_nrows hB)), hs i hi]
  · obtain ⟨c, hc, -, e⟩ := exec_solve_of_not_fullRank hn hf
    exact ⟨c, hc, e⟩

end Machine

end Sys2Proof
end

section
/-! SUPPORT. What an error leaves alone, and what ends idleness: the statements of the family `60_exceptions.md`. -/

namespace Sys2Proof.Machine

/-! ### What an error changes (R251) -/

/-- Every command ends with OK, or with BADARG and no other effect, or with SINGULAR and no effect beside RANKCOL and INCON
(R224, R250, R251). -/
theorem exec_code_cases (i : Instr) (s : State) :
    (∃ u : State, exec i s = .next (u.complete .ok)) ∨ exec i s = .next (s.complete .badArg) ∨
    (∃ v b, exec i s = .next (((s.setRankCol v).setIncon b).complete .singular)) := by
  obtain ⟨c, u, e, hc, -⟩ := exec_completes i s
  have hi : c = .ok ∨ i = .solve ∨ ∃ ra, i = .mrows ra := hc.imp_right fun h => h.elim (fun h => .inl h.2) And.right
  rcases hi with rfl | rfl | ⟨ra, rfl⟩
  · exact .inl ⟨u, e⟩
  · rcases exec_solve_cases s with ⟨-, e⟩ | ⟨_, -, -, e⟩ | ⟨_, -, e⟩
    · exact .inr (.inl e)
    · exact .inr (.inr ⟨_, _, e⟩)
    · exact .inl ⟨_, e⟩
  · by_cases hg : s.ngapCount ≤ 64
    · exact .inl ⟨_, exec_mrows_ok s ra hg⟩
    · exact .inr (.inl (exec_mrows_bad s ra (by omega)))

/-- The same of the engine's transition, which has BADCMD besides (R107). -/
theorem engineStep_code_cases (w : Word) (s : State) :
    (∃ u : State, engineStep w s = .next (u.complete .ok)) ∨
    (∃ c, c ≠ .singular ∧ engineStep w s = .next (s.complete c)) ∨
    (∃ v b, engineStep w s = .next (((s.setRankCol v).setIncon b).complete .singular)) := by
  rcases engineStep_cases w s with ⟨i, -, e⟩ | ⟨_, -, e⟩
  · rw [e]
    exact (exec_code_cases i s).imp_right (Or.imp_left fun h => ⟨.badArg, by decide, h⟩)
  · exact .inr (.inl ⟨.badCmd, by decide, e⟩)

/-- Settles O8: by how the transition completes, with the code read off ERR. -/
theorem errorsChangeNothingElse : Obligations.ErrorsChangeNothingElse := by
  unfold Obligations.ErrorsChangeNothingElse
  intro w s t h
  rcases engineStep_code_cases w s with ⟨u, e⟩ | ⟨c, hc, e⟩ | ⟨v, b, e⟩ <;> cases h.symm.trans e
  · rw [State.complete_err]
    exact ⟨fun ht => absurd ht (by decide), fun ht => absurd ht (by decide)⟩
  · exact ⟨fun _ => rfl, fun ht => absurd (ErrCode.bits_injective (d := .singular) ht) hc⟩
  · rw [State.complete_err]
    exact ⟨fun ht => absurd ht (by decide), fun _ => rfl⟩

/-! ### What makes a command pending (R42, R266) -/

/-- With no command pending, a write that leaves one pending is to CMD and of the command's word (R42). -/
theorem hostWrite_wakes {a : BitVec 16} {v : Word} {s t : State} {p : Pending} (hs : s.pending = none)
    (h : hostWrite a v s = .next t) (hp : t.pending = some p) : Loc.ofOffset a = .cmd ∧ p.word = v := by
  rcases hostWrite_cases a v s with ⟨e, -⟩ | ⟨e, -, -⟩ | ⟨e, -, -, -⟩ | ⟨e, -, -, -⟩ <;> cases h.symm.trans e
  · cases hs.symm.trans hp
  · rcases statusWrite_cases v s with ⟨-, e⟩ | ⟨-, e⟩ <;> rw [e] at hp <;> cases hs.symm.trans hp
  · cases hs.symm.trans hp
  · by_cases ha : Loc.ofOffset a = .cmd
    · rw [ha] at hp
      cases (s.startCommand_pending v).symm.trans hp
      exact ⟨ha, rfl⟩
    · cases (hs.symm.trans (s.poke_pending v ha).symm).trans hp

/-- With no command pending, only that write leaves one pending (R266). -/
theorem busEvent_wakes {op : BusOp} {s t : State} {p : Pending} (hs : s.pending = none) (h : busEvent op s = .next t)
    (hp : t.pending = some p) : ∃ a, op = .write .word a p.word ∧ Loc.ofOffset a = .cmd := by
  rcases busEvent_next_cases h with ⟨_, _, _, rfl, -⟩ | ⟨a, v, hop, hw⟩ | ⟨level, -, rfl⟩
  · cases hs.symm.trans hp
  · obtain ⟨ha, hv⟩ := hostWrite_wakes hs hw hp
    exact ⟨a, hv ▸ hop, ha⟩
  · rcases rstChange_cases level s with ⟨-, e⟩ | ⟨-, -, e⟩ | ⟨-, -, e⟩ <;> rw [e] at hp
    · cases hp
    · cases hp
    · cases hs.symm.trans hp

theorem State.busy_eq_false_iff {s : State} : s.busy = false ↔ s.pending = none := by
  rw [State.busy, Option.isSome_eq_false_iff, Option.isNone_iff_eq_none]

/-- Idle, with nothing to come, the block keeps its state (R19, R266). -/
theorem step_of_idle {s : State} (hi : s.inbox = []) (hp : s.pending = none) : step s = .next s := by
  simp only [step, systemStep, hi, hp]

/-- Settles O51: with no command pending a step is idle or the host's event, and only a write to CMD starts a command. -/
theorem onlyCmdWriteWakes : Obligations.OnlyCmdWriteWakes := by
  unfold Obligations.OnlyCmdWriteWakes
  refine ⟨fun s hi hb => step_of_idle hi (State.busy_eq_false_iff.1 hb), fun s t p h hb hp => ?_⟩
  have hs := State.busy_eq_false_iff.1 hb
  rcases step_cases s with ⟨-, -, e⟩ | ⟨q, hq, -, -⟩ | ⟨op, rest, hi, -, e⟩ | ⟨_, _, q, -, hq, -, -⟩
  · cases h.symm.trans e
    cases hs.symm.trans hp
  · cases hs.symm.trans hq
  · obtain ⟨a, rfl, ha⟩ := busEvent_wakes (s := s.setInbox rest) hs (e.symm.trans h) hp
    exact ⟨a, rest, hi, ha⟩
  · cases hs.symm.trans hq

end Sys2Proof.Machine
end

section
/-! SUPPORT. What each event does while rst is asserted, and what a change of rst does: the statements of the family
`70_reset_and_hazards.md`. -/

namespace Sys2Proof.Machine

/-! ### Events under rst (R280, R281) -/

/-- The assertion of rst abandons the pending command and leaves every register as it was (R281; log 6). -/
theorem busEvent_rst_true (s : State) : busEvent (.rst true) s = .next ((s.setRst true).setPending none) := rfl

/-- The deassertion of rst leaves the reset state (R280, R281). -/
theorem busEvent_rst_false {s : State} (hr : s.rst = true) :
    busEvent (.rst false) s = .next (State.resetWith s.draws s.inbox s.rdata) := by
  rw [busEvent, rstChange, if_neg Bool.false_ne_true, if_pos hr]

/-- Under rst a write has no effect, to STATUS and CMD too (R280). -/
theorem hostWrite_under_rst {s : State} (hr : s.rst = true) (a : BitVec 16) (v : Word) : hostWrite a v s = .next s :=
  if_pos hr

/-- Under rst every read is free, also of what is readable while BUSY = 1 (R280; log 6). -/
theorem hostRead_under_rst {s : State} (hr : s.rst = true) (a : BitVec 16) :
    hostRead a s = .next ((s.setRdata (Config.freeRead s.draws)).drawn) :=
  if_pos (Bool.or_eq_true_iff.2 (.inl hr))

/-- Settles O53: the assertion from any state, and under rst a write, a read and the deassertion. -/
theorem rstAbandonsAndRestores : Obligations.RstAbandonsAndRestores := by
  unfold Obligations.RstAbandonsAndRestores
  refine fun s a v ha => ⟨busEvent_rst_true s, fun hr => ⟨?_, ?_, busEvent_rst_false hr⟩⟩
  · rw [busEvent, if_pos (accessSupported_word ha), hostWrite_under_rst hr]
  · rw [busEvent, if_pos (accessSupported_word ha), hostRead_under_rst hr]
    rfl

end Sys2Proof.Machine
end
